-- ==== Sys2Proof/Word.lean ====
section
/-! DEFINITION. The word types of the engine: bytes of memory and 32-bit registers and addresses
(spec/10_state.md R21, R25; spec/20_memory.md R50). -/

namespace Sys2Proof

/-- One 8-bit byte of memory (R50). -/
abbrev Byte := BitVec 8

/-- A full register, an address, or the instruction pointer: `XLEN = IPLEN = 32` bits (R9, R21, R25). -/
abbrev Word := BitVec 32

/-- A general register's index, 0 to 7 (R21); also an opcode extension, 0 to 7 (R15). -/
abbrev Reg := Fin 8

/-- The legal operand widths, 1, 2 and 4 bytes; "Widths of 3 bytes do not occur" (R9, R101). -/
inductive Width where
  | w1
  | w2
  | w4
  deriving DecidableEq, Repr

/-- The width as a count of bytes (R10). -/
def Width.bytes : Width → Nat
  | .w1 => 1
  | .w2 => 2
  | .w4 => 4

end Sys2Proof
end

