-- ==== Sys2Proof/Config.lean ====
section
/-! DEFINITION. The engine's fixed parameters (spec/00_scope.md R9). `MEM_SIZE` and `HALT_ADDR`, which the spec
leaves OPEN, are fields of State; `Decode` and `OPMAP` are arguments of the protocol's functions. -/

namespace Sys2Proof.Config

/-- `ADDR_WIDTH`: bytes of a direct-memory-offset immediate (R9, R165; log entry 9). -/
def addrWidth : Nat := 4

/-- The number of addresses of the one address space (R50). -/
def addressSpace : Nat := 2 ^ 32

/-- What a byte of memory that nothing has written reads as. DESIGN CHOICE (log entry 4): the spec makes memory's
contents a launch parameter (R34). -/
def unlistedByte : Byte := 0#8

/-- The longest instruction in bytes, with the default decoder (R83). -/
def longestInstruction : Nat := 11

/-- `ACC`: the accumulator register's index (R9, R24). -/
def acc : Reg := 0

end Sys2Proof.Config
end

