-- ==== Sys2Proof/Syntax.lean ====
section
/-! DEFINITION. Instructions as syntax: one constructor for each row of spec/opcode_table.json (spec/30_encoding.md
R72, R81, R89). A `b` row (operand width 1) keeps whether a redundant 0x66 prefix stands before it (`p66`); a `v` row
keeps its v-size, which is 2 exactly when the prefix stands there (R84). -/

namespace Sys2Proof

/-- The v-size: 4, or 2 after a 0x66 prefix (R80, R84). -/
inductive VSize where
  | v2
  | v4
  deriving DecidableEq, Repr

/-- The operand width of a `v` row (R80). -/
def VSize.width : VSize → Width
  | .v2 => .w2
  | .v4 => .w4

/-- An immediate of a `v` row whose width is the operand width (`iw = w`), or JMP's displacement: 2 bytes after the
0x66 prefix, else 4 (R74, R84). -/
inductive VImm where
  | word (imm : BitVec 16)
  | dword (imm : BitVec 32)
  deriving DecidableEq, Repr

/-- The v-size that an immediate of a `v` row has (R84). -/
def VImm.size : VImm → VSize
  | .word _ => .v2
  | .dword _ => .v4

/-- The immediate as the unsigned pattern that `FetchImm` returns (R74, R139). -/
def VImm.toNat : VImm → Nat
  | .word i => i.toNat
  | .dword i => i.toNat

/-- The displacement inside the addressing bytes: absent, one byte, or four (R76). -/
inductive Disp where
  | none
  | disp8 (d : BitVec 8)
  | disp32 (d : BitVec 32)
  deriving DecidableEq, Repr

/-- What the addressing bytes say of the `rm` operand (R76 to R78). The `reg` field is kept apart, since the forms
read it as a register or as an opcode extension (R75). -/
inductive Addressing where
  /-- `mod = 3`: a register. -/
  | reg (i : Reg)
  /-- `mod` 0, 1 or 2 with `rm` not 4: a base register and a displacement. -/
  | base (b : Reg) (d : Disp)
  /-- `mod = 0`, `rm = 5`: a 4-byte displacement only. -/
  | abs (d : BitVec 32)
  /-- `rm = 4`: scale, index (4 means none), base and displacement. -/
  | sib (scale : Fin 4) (index b : Reg) (d : Disp)
  /-- `rm = 4`, `mod = 0`, SIB base field 5: scaled index and a 4-byte displacement, no base. -/
  | sibAbs (scale : Fin 4) (index : Reg) (d : BitVec 32)
  deriving DecidableEq, Repr

/-- The instructions: one constructor for each of the 78 rows of spec/opcode_table.json (R81). -/
inductive Instr where
  /-- `00 A..`: ADD rm, r at width 1. -/
  | addRmR8 (p66 : Bool) (am : Addressing) (r : Reg)
  /-- `01 A..`: ADD rm, r at the v-size. -/
  | addRmRv (v : VSize) (am : Addressing) (r : Reg)
  /-- `02 A..`: ADD r, rm at width 1. -/
  | addRRm8 (p66 : Bool) (r : Reg) (am : Addressing)
  /-- `03 A..`: ADD r, rm at the v-size. -/
  | addRRmv (v : VSize) (r : Reg) (am : Addressing)
  /-- `04 imm8`: ADD r0, imm at width 1. -/
  | addAccImm8 (p66 : Bool) (imm : BitVec 8)
  /-- `05 imm`: ADD r0, imm at the v-size. -/
  | addAccImmv (imm : VImm)
  /-- `80 /0 A.. imm8`: ADD rm, imm at width 1. -/
  | addRmImm8 (p66 : Bool) (am : Addressing) (imm : BitVec 8)
  /-- `81 /0 A.. imm`: ADD rm, imm at the v-size. -/
  | addRmImmv (am : Addressing) (imm : VImm)
  /-- `83 /0 A.. imm8`: ADD rm, sign-extended 1-byte imm at the v-size. -/
  | addRmSImm8 (v : VSize) (am : Addressing) (imm : BitVec 8)
  /-- `08 A..`: OR rm, r at width 1. -/
  | orRmR8 (p66 : Bool) (am : Addressing) (r : Reg)
  /-- `09 A..`: OR rm, r at the v-size. -/
  | orRmRv (v : VSize) (am : Addressing) (r : Reg)
  /-- `0A A..`: OR r, rm at width 1. -/
  | orRRm8 (p66 : Bool) (r : Reg) (am : Addressing)
  /-- `0B A..`: OR r, rm at the v-size. -/
  | orRRmv (v : VSize) (r : Reg) (am : Addressing)
  /-- `0C imm8`: OR r0, imm at width 1. -/
  | orAccImm8 (p66 : Bool) (imm : BitVec 8)
  /-- `0D imm`: OR r0, imm at the v-size. -/
  | orAccImmv (imm : VImm)
  /-- `80 /1 A.. imm8`: OR rm, imm at width 1. -/
  | orRmImm8 (p66 : Bool) (am : Addressing) (imm : BitVec 8)
  /-- `81 /1 A.. imm`: OR rm, imm at the v-size. -/
  | orRmImmv (am : Addressing) (imm : VImm)
  /-- `83 /1 A.. imm8`: OR rm, sign-extended 1-byte imm at the v-size. -/
  | orRmSImm8 (v : VSize) (am : Addressing) (imm : BitVec 8)
  /-- `20 A..`: AND rm, r at width 1. -/
  | andRmR8 (p66 : Bool) (am : Addressing) (r : Reg)
  /-- `21 A..`: AND rm, r at the v-size. -/
  | andRmRv (v : VSize) (am : Addressing) (r : Reg)
  /-- `22 A..`: AND r, rm at width 1. -/
  | andRRm8 (p66 : Bool) (r : Reg) (am : Addressing)
  /-- `23 A..`: AND r, rm at the v-size. -/
  | andRRmv (v : VSize) (r : Reg) (am : Addressing)
  /-- `24 imm8`: AND r0, imm at width 1. -/
  | andAccImm8 (p66 : Bool) (imm : BitVec 8)
  /-- `25 imm`: AND r0, imm at the v-size. -/
  | andAccImmv (imm : VImm)
  /-- `80 /4 A.. imm8`: AND rm, imm at width 1. -/
  | andRmImm8 (p66 : Bool) (am : Addressing) (imm : BitVec 8)
  /-- `81 /4 A.. imm`: AND rm, imm at the v-size. -/
  | andRmImmv (am : Addressing) (imm : VImm)
  /-- `83 /4 A.. imm8`: AND rm, sign-extended 1-byte imm at the v-size. -/
  | andRmSImm8 (v : VSize) (am : Addressing) (imm : BitVec 8)
  /-- `28 A..`: SUB rm, r at width 1. -/
  | subRmR8 (p66 : Bool) (am : Addressing) (r : Reg)
  /-- `29 A..`: SUB rm, r at the v-size. -/
  | subRmRv (v : VSize) (am : Addressing) (r : Reg)
  /-- `2A A..`: SUB r, rm at width 1. -/
  | subRRm8 (p66 : Bool) (r : Reg) (am : Addressing)
  /-- `2B A..`: SUB r, rm at the v-size. -/
  | subRRmv (v : VSize) (r : Reg) (am : Addressing)
  /-- `2C imm8`: SUB r0, imm at width 1. -/
  | subAccImm8 (p66 : Bool) (imm : BitVec 8)
  /-- `2D imm`: SUB r0, imm at the v-size. -/
  | subAccImmv (imm : VImm)
  /-- `80 /5 A.. imm8`: SUB rm, imm at width 1. -/
  | subRmImm8 (p66 : Bool) (am : Addressing) (imm : BitVec 8)
  /-- `81 /5 A.. imm`: SUB rm, imm at the v-size. -/
  | subRmImmv (am : Addressing) (imm : VImm)
  /-- `83 /5 A.. imm8`: SUB rm, sign-extended 1-byte imm at the v-size. -/
  | subRmSImm8 (v : VSize) (am : Addressing) (imm : BitVec 8)
  /-- `30 A..`: XOR rm, r at width 1. -/
  | xorRmR8 (p66 : Bool) (am : Addressing) (r : Reg)
  /-- `31 A..`: XOR rm, r at the v-size. -/
  | xorRmRv (v : VSize) (am : Addressing) (r : Reg)
  /-- `32 A..`: XOR r, rm at width 1. -/
  | xorRRm8 (p66 : Bool) (r : Reg) (am : Addressing)
  /-- `33 A..`: XOR r, rm at the v-size. -/
  | xorRRmv (v : VSize) (r : Reg) (am : Addressing)
  /-- `34 imm8`: XOR r0, imm at width 1. -/
  | xorAccImm8 (p66 : Bool) (imm : BitVec 8)
  /-- `35 imm`: XOR r0, imm at the v-size. -/
  | xorAccImmv (imm : VImm)
  /-- `80 /6 A.. imm8`: XOR rm, imm at width 1. -/
  | xorRmImm8 (p66 : Bool) (am : Addressing) (imm : BitVec 8)
  /-- `81 /6 A.. imm`: XOR rm, imm at the v-size. -/
  | xorRmImmv (am : Addressing) (imm : VImm)
  /-- `83 /6 A.. imm8`: XOR rm, sign-extended 1-byte imm at the v-size. -/
  | xorRmSImm8 (v : VSize) (am : Addressing) (imm : BitVec 8)
  /-- `38 A..`: CMP rm, r at width 1. -/
  | cmpRmR8 (p66 : Bool) (am : Addressing) (r : Reg)
  /-- `39 A..`: CMP rm, r at the v-size. -/
  | cmpRmRv (v : VSize) (am : Addressing) (r : Reg)
  /-- `3A A..`: CMP r, rm at width 1. -/
  | cmpRRm8 (p66 : Bool) (r : Reg) (am : Addressing)
  /-- `3B A..`: CMP r, rm at the v-size. -/
  | cmpRRmv (v : VSize) (r : Reg) (am : Addressing)
  /-- `3C imm8`: CMP r0, imm at width 1. -/
  | cmpAccImm8 (p66 : Bool) (imm : BitVec 8)
  /-- `3D imm`: CMP r0, imm at the v-size. -/
  | cmpAccImmv (imm : VImm)
  /-- `80 /7 A.. imm8`: CMP rm, imm at width 1. -/
  | cmpRmImm8 (p66 : Bool) (am : Addressing) (imm : BitVec 8)
  /-- `81 /7 A.. imm`: CMP rm, imm at the v-size. -/
  | cmpRmImmv (am : Addressing) (imm : VImm)
  /-- `83 /7 A.. imm8`: CMP rm, sign-extended 1-byte imm at the v-size. -/
  | cmpRmSImm8 (v : VSize) (am : Addressing) (imm : BitVec 8)
  /-- `84 A..`: TEST rm, r at width 1. -/
  | testRmR8 (p66 : Bool) (am : Addressing) (r : Reg)
  /-- `85 A..`: TEST rm, r at the v-size. -/
  | testRmRv (v : VSize) (am : Addressing) (r : Reg)
  /-- `A8 imm8`: TEST r0, imm at width 1. -/
  | testAccImm8 (p66 : Bool) (imm : BitVec 8)
  /-- `A9 imm`: TEST r0, imm at the v-size. -/
  | testAccImmv (imm : VImm)
  /-- `F6 /0 A.. imm8`: TEST rm, imm at width 1. -/
  | testRmImm8 (p66 : Bool) (am : Addressing) (imm : BitVec 8)
  /-- `F7 /0 A.. imm`: TEST rm, imm at the v-size. -/
  | testRmImmv (am : Addressing) (imm : VImm)
  /-- `F6 /2 A..`: NOT rm at width 1. -/
  | notRm8 (p66 : Bool) (am : Addressing)
  /-- `F7 /2 A..`: NOT rm at the v-size. -/
  | notRmv (v : VSize) (am : Addressing)
  /-- `F6 /3 A..`: NEG rm at width 1. -/
  | negRm8 (p66 : Bool) (am : Addressing)
  /-- `F7 /3 A..`: NEG rm at the v-size. -/
  | negRmv (v : VSize) (am : Addressing)
  /-- `88 A..`: MOV rm, r at width 1. -/
  | movRmR8 (p66 : Bool) (am : Addressing) (r : Reg)
  /-- `89 A..`: MOV rm, r at the v-size. -/
  | movRmRv (v : VSize) (am : Addressing) (r : Reg)
  /-- `8A A..`: MOV r, rm at width 1. -/
  | movRRm8 (p66 : Bool) (r : Reg) (am : Addressing)
  /-- `8B A..`: MOV r, rm at the v-size. -/
  | movRRmv (v : VSize) (r : Reg) (am : Addressing)
  /-- `A0 addr32`: MOV r0, @addr at width 1. -/
  | movAccMoffs8 (p66 : Bool) (addr : BitVec 32)
  /-- `A1 addr32`: MOV r0, @addr at the v-size. -/
  | movAccMoffsv (v : VSize) (addr : BitVec 32)
  /-- `A2 addr32`: MOV @addr, r0 at width 1. -/
  | movMoffsAcc8 (p66 : Bool) (addr : BitVec 32)
  /-- `A3 addr32`: MOV @addr, r0 at the v-size. -/
  | movMoffsAccv (v : VSize) (addr : BitVec 32)
  /-- `B0+r imm8`: MOV r, imm at width 1. -/
  | movRImm8 (p66 : Bool) (r : Reg) (imm : BitVec 8)
  /-- `B8+r imm`: MOV r, imm at the v-size. -/
  | movRImmv (r : Reg) (imm : VImm)
  /-- `C6 /0 A.. imm8`: MOV rm, imm at width 1. -/
  | movRmImm8 (p66 : Bool) (am : Addressing) (imm : BitVec 8)
  /-- `C7 /0 A.. imm`: MOV rm, imm at the v-size. -/
  | movRmImmv (am : Addressing) (imm : VImm)
  /-- `E9 disp`: JMP at the v-size. -/
  | jmpRelv (disp : VImm)
  /-- `EB disp8`: JMP at width 1. -/
  | jmpRel8 (p66 : Bool) (disp : BitVec 8)
  deriving DecidableEq, Repr

end Sys2Proof
end

