-- ==== Sys2Proof/WellFormed.lean ====
section
/-! DEFINITION. Which terms of Instr stand for an encoding: the addressing forms that the ModRM/SIB layout of
spec/30_encoding.md R76 to R78 has no bytes for are refused. -/

namespace Sys2Proof

/-- An addressing term that the layout of R76, R77 can write: `rm = 4` is the SIB escape, so register 4 is no plain
base; `mod = 0` with `rm = 5` is the bare displacement, so base 5 has a displacement; the same of the SIB base. -/
def Addressing.wf : Addressing → Bool
  | .reg _ => true
  | .base b d => b != 4 && (b != 5 || d != .none)
  | .abs _ => true
  | .sib _ _ b d => b != 5 || d != .none
  | .sibAbs _ _ _ => true

/-- A well-formed instruction: its addressing term is one that has an encoding. Every other field is well formed by
its type. -/
def Instr.wf : Instr → Bool
  | .addRmR8 _ am _ => am.wf
  | .addRmRv _ am _ => am.wf
  | .addRRm8 _ _ am => am.wf
  | .addRRmv _ _ am => am.wf
  | .addAccImm8 _ _ => true
  | .addAccImmv _ => true
  | .addRmImm8 _ am _ => am.wf
  | .addRmImmv am _ => am.wf
  | .addRmSImm8 _ am _ => am.wf
  | .orRmR8 _ am _ => am.wf
  | .orRmRv _ am _ => am.wf
  | .orRRm8 _ _ am => am.wf
  | .orRRmv _ _ am => am.wf
  | .orAccImm8 _ _ => true
  | .orAccImmv _ => true
  | .orRmImm8 _ am _ => am.wf
  | .orRmImmv am _ => am.wf
  | .orRmSImm8 _ am _ => am.wf
  | .andRmR8 _ am _ => am.wf
  | .andRmRv _ am _ => am.wf
  | .andRRm8 _ _ am => am.wf
  | .andRRmv _ _ am => am.wf
  | .andAccImm8 _ _ => true
  | .andAccImmv _ => true
  | .andRmImm8 _ am _ => am.wf
  | .andRmImmv am _ => am.wf
  | .andRmSImm8 _ am _ => am.wf
  | .subRmR8 _ am _ => am.wf
  | .subRmRv _ am _ => am.wf
  | .subRRm8 _ _ am => am.wf
  | .subRRmv _ _ am => am.wf
  | .subAccImm8 _ _ => true
  | .subAccImmv _ => true
  | .subRmImm8 _ am _ => am.wf
  | .subRmImmv am _ => am.wf
  | .subRmSImm8 _ am _ => am.wf
  | .xorRmR8 _ am _ => am.wf
  | .xorRmRv _ am _ => am.wf
  | .xorRRm8 _ _ am => am.wf
  | .xorRRmv _ _ am => am.wf
  | .xorAccImm8 _ _ => true
  | .xorAccImmv _ => true
  | .xorRmImm8 _ am _ => am.wf
  | .xorRmImmv am _ => am.wf
  | .xorRmSImm8 _ am _ => am.wf
  | .cmpRmR8 _ am _ => am.wf
  | .cmpRmRv _ am _ => am.wf
  | .cmpRRm8 _ _ am => am.wf
  | .cmpRRmv _ _ am => am.wf
  | .cmpAccImm8 _ _ => true
  | .cmpAccImmv _ => true
  | .cmpRmImm8 _ am _ => am.wf
  | .cmpRmImmv am _ => am.wf
  | .cmpRmSImm8 _ am _ => am.wf
  | .testRmR8 _ am _ => am.wf
  | .testRmRv _ am _ => am.wf
  | .testAccImm8 _ _ => true
  | .testAccImmv _ => true
  | .testRmImm8 _ am _ => am.wf
  | .testRmImmv am _ => am.wf
  | .notRm8 _ am => am.wf
  | .notRmv _ am => am.wf
  | .negRm8 _ am => am.wf
  | .negRmv _ am => am.wf
  | .movRmR8 _ am _ => am.wf
  | .movRmRv _ am _ => am.wf
  | .movRRm8 _ _ am => am.wf
  | .movRRmv _ _ am => am.wf
  | .movAccMoffs8 _ _ => true
  | .movAccMoffsv _ _ => true
  | .movMoffsAcc8 _ _ => true
  | .movMoffsAccv _ _ => true
  | .movRImm8 _ _ _ => true
  | .movRImmv _ _ => true
  | .movRmImm8 _ am _ => am.wf
  | .movRmImmv am _ => am.wf
  | .jmpRelv _ => true
  | .jmpRel8 _ _ => true

end Sys2Proof
end

