-- ==== Sys2Proof/Decode.lean ====
section
/-! DEFINITION. The decoder, total on any bytes, and the encoder (spec/30_encoding.md R70 to R89), with the bit-field and
byte-order helpers they and the memory use (spec/00_scope.md R10; spec/20_memory.md R51 to R53).

The decoder reads its bytes through a `ByteSource`, so that the one decoder reads a list of bytes and the machine's
memory (`FetchImm`, R139) alike. -/

namespace Sys2Proof

/-! ### Bit fields and byte order -/

/-- `v[hi:lo]`, bits `hi` down to `lo` of `v` (R10). -/
def bits (v hi lo : Nat) : Nat := v / 2 ^ lo % 2 ^ (hi - lo + 1)

/-- The number that a little-endian byte string stands for: the byte at the lowest address is the least significant
(R51). -/
def leNat : List Byte → Nat
  | [] => 0
  | b :: bs => b.toNat + 256 * leNat bs

/-- The `n` bytes of the `n`-byte pattern `v`, least significant first (R52). -/
def leBytes : Nat → Nat → List Byte
  | 0, _ => []
  | n + 1, v => BitVec.ofNat 8 v :: leBytes n (v / 256)

/-! ### Where the decoder reads -/

/-- `src off n`: the little-endian value of the `n` bytes that stand `off` bytes after the instruction's first byte, or
none where they cannot be read. -/
abbrev ByteSource := Nat → Nat → Option Nat

/-- The byte source of a list of bytes. -/
def listSource (bs : List Byte) : ByteSource := fun off n =>
  if off + n ≤ bs.length then some (leNat ((bs.drop off).take n)) else none

/-- Why the decoder reads no instruction. -/
inductive DecodeStop where
  /-- the `n` bytes at offset `off` cannot be read -/
  | unreadable (off n : Nat)
  /-- the opcode byte has an empty candidate list (R86) -/
  | noCandidate (opcode : Nat)
  /-- the opcode byte's group has no instruction with this extension value (R87) -/
  | reservedExtension (opcode : Nat) (ext : Reg)
  deriving DecidableEq, Repr

/-- Read `n` bytes at `off`: `FetchImm(n)` of R139 over a byte source. -/
def fetch (src : ByteSource) (off n : Nat) : Except DecodeStop Nat :=
  match src off n with
  | some v => .ok v
  | none => .error (.unreadable off n)

/-! ### The addressing bytes (R76 to R78) -/

/-- The displacement that `mod` 0, 1 or 2 calls for (`DLEN`, R76), and the offset after it. -/
def decodeDisp (src : ByteSource) (mod off : Nat) : Except DecodeStop (Disp × Nat) :=
  match mod with
  | 0 => .ok (.none, off)
  | 1 => do
    let d ← fetch src off 1
    .ok (.disp8 (BitVec.ofNat 8 d), off + 1)
  | _ => do
    let d ← fetch src off 4
    .ok (.disp32 (BitVec.ofNat 32 d), off + 4)

/-- The addressing bytes at `off`: the `rm` operand, the `reg` field, and the offset after them (R76, R77). -/
def decodeAddressing (src : ByteSource) (off : Nat) : Except DecodeStop (Addressing × Reg × Nat) := do
  let m ← fetch src off 1
  let mod := bits m 7 6
  let reg := Fin.ofNat 8 (bits m 5 3)
  let rm := bits m 2 0
  if mod = 3 then
    .ok (.reg (Fin.ofNat 8 rm), reg, off + 1)
  else if rm = 4 then do
    let sb ← fetch src (off + 1) 1
    let scale := Fin.ofNat 4 (bits sb 7 6)
    let index := Fin.ofNat 8 (bits sb 5 3)
    let b := bits sb 2 0
    if b = 5 ∧ mod = 0 then do
      let d ← fetch src (off + 2) 4
      .ok (.sibAbs scale index (BitVec.ofNat 32 d), reg, off + 6)
    else do
      let (d, off') ← decodeDisp src mod (off + 2)
      .ok (.sib scale index (Fin.ofNat 8 b) d, reg, off')
  else if mod = 0 ∧ rm = 5 then do
    let d ← fetch src (off + 1) 4
    .ok (.abs (BitVec.ofNat 32 d), reg, off + 5)
  else do
    let (d, off') ← decodeDisp src mod (off + 1)
    .ok (.base (Fin.ofNat 8 rm) d, reg, off')

/-! ### The opcode bytes (R81, R82) -/

/-- What follows the addressing bytes of a form whose extension has been checked. -/
inductive Tail where
  | done (mk : Addressing → Instr)
  | imm8 (mk : Addressing → BitVec 8 → Instr)
  | immv (mk : Addressing → VImm → Instr)

/-- The operand shape of an opcode byte: which bytes follow it, in order (R72), and the row they make. -/
inductive Form where
  /-- `A..`, the `reg` field a register -/
  | addressed (mk : Addressing → Reg → Instr)
  /-- `A..`, the `reg` field an opcode extension, then what the extension's row has -/
  | group (pick : Reg → Option Tail)
  /-- `imm8` -/
  | imm8 (mk : BitVec 8 → Instr)
  /-- an immediate or displacement of the v-size -/
  | immv (mk : VImm → Instr)
  /-- `addr[ADDR_WIDTH]` -/
  | moffs (mk : BitVec 32 → Instr)

/-- The operand-immediate group at width 1: opcode byte `80` (R82). -/
def group80 (p66 : Bool) (ext : Reg) : Option Tail :=
  match ext with
  | 0 => some (.imm8 (.addRmImm8 p66))
  | 1 => some (.imm8 (.orRmImm8 p66))
  | 4 => some (.imm8 (.andRmImm8 p66))
  | 5 => some (.imm8 (.subRmImm8 p66))
  | 6 => some (.imm8 (.xorRmImm8 p66))
  | 7 => some (.imm8 (.cmpRmImm8 p66))
  | _ => none

/-- The operand-immediate group at the v-size with a full immediate: opcode byte `81` (R82). -/
def group81 (ext : Reg) : Option Tail :=
  match ext with
  | 0 => some (.immv .addRmImmv)
  | 1 => some (.immv .orRmImmv)
  | 4 => some (.immv .andRmImmv)
  | 5 => some (.immv .subRmImmv)
  | 6 => some (.immv .xorRmImmv)
  | 7 => some (.immv .cmpRmImmv)
  | _ => none

/-- The operand-immediate group at the v-size with a 1-byte immediate: opcode byte `83` (R82). -/
def group83 (v : VSize) (ext : Reg) : Option Tail :=
  match ext with
  | 0 => some (.imm8 (.addRmSImm8 v))
  | 1 => some (.imm8 (.orRmSImm8 v))
  | 4 => some (.imm8 (.andRmSImm8 v))
  | 5 => some (.imm8 (.subRmSImm8 v))
  | 6 => some (.imm8 (.xorRmSImm8 v))
  | 7 => some (.imm8 (.cmpRmSImm8 v))
  | _ => none

/-- The operand-immediate MOV at width 1: opcode byte `C6` (R82). -/
def groupC6 (p66 : Bool) (ext : Reg) : Option Tail :=
  match ext with
  | 0 => some (.imm8 (.movRmImm8 p66))
  | _ => none

/-- The operand-immediate MOV at the v-size: opcode byte `C7` (R82). -/
def groupC7 (ext : Reg) : Option Tail :=
  match ext with
  | 0 => some (.immv .movRmImmv)
  | _ => none

/-- The unary group at width 1: opcode byte `F6` (R82). -/
def groupF6 (p66 : Bool) (ext : Reg) : Option Tail :=
  match ext with
  | 0 => some (.imm8 (.testRmImm8 p66))
  | 2 => some (.done (.notRm8 p66))
  | 3 => some (.done (.negRm8 p66))
  | _ => none

/-- The unary group at the v-size: opcode byte `F7` (R82). -/
def groupF7 (v : VSize) (ext : Reg) : Option Tail :=
  match ext with
  | 0 => some (.immv .testRmImmv)
  | 2 => some (.done (.notRmv v))
  | 3 => some (.done (.negRmv v))
  | _ => none

/-- The shape of each opcode byte of R81, `none` for a byte not listed there. -/
def opcodeForm (opcode : Nat) (p66 : Bool) (v : VSize) : Option Form :=
  match opcode with
  | 0x00 => some (.addressed (.addRmR8 p66))
  | 0x01 => some (.addressed (.addRmRv v))
  | 0x02 => some (.addressed fun am r => .addRRm8 p66 r am)
  | 0x03 => some (.addressed fun am r => .addRRmv v r am)
  | 0x04 => some (.imm8 (.addAccImm8 p66))
  | 0x05 => some (.immv .addAccImmv)
  | 0x08 => some (.addressed (.orRmR8 p66))
  | 0x09 => some (.addressed (.orRmRv v))
  | 0x0A => some (.addressed fun am r => .orRRm8 p66 r am)
  | 0x0B => some (.addressed fun am r => .orRRmv v r am)
  | 0x0C => some (.imm8 (.orAccImm8 p66))
  | 0x0D => some (.immv .orAccImmv)
  | 0x20 => some (.addressed (.andRmR8 p66))
  | 0x21 => some (.addressed (.andRmRv v))
  | 0x22 => some (.addressed fun am r => .andRRm8 p66 r am)
  | 0x23 => some (.addressed fun am r => .andRRmv v r am)
  | 0x24 => some (.imm8 (.andAccImm8 p66))
  | 0x25 => some (.immv .andAccImmv)
  | 0x28 => some (.addressed (.subRmR8 p66))
  | 0x29 => some (.addressed (.subRmRv v))
  | 0x2A => some (.addressed fun am r => .subRRm8 p66 r am)
  | 0x2B => some (.addressed fun am r => .subRRmv v r am)
  | 0x2C => some (.imm8 (.subAccImm8 p66))
  | 0x2D => some (.immv .subAccImmv)
  | 0x30 => some (.addressed (.xorRmR8 p66))
  | 0x31 => some (.addressed (.xorRmRv v))
  | 0x32 => some (.addressed fun am r => .xorRRm8 p66 r am)
  | 0x33 => some (.addressed fun am r => .xorRRmv v r am)
  | 0x34 => some (.imm8 (.xorAccImm8 p66))
  | 0x35 => some (.immv .xorAccImmv)
  | 0x38 => some (.addressed (.cmpRmR8 p66))
  | 0x39 => some (.addressed (.cmpRmRv v))
  | 0x3A => some (.addressed fun am r => .cmpRRm8 p66 r am)
  | 0x3B => some (.addressed fun am r => .cmpRRmv v r am)
  | 0x3C => some (.imm8 (.cmpAccImm8 p66))
  | 0x3D => some (.immv .cmpAccImmv)
  | 0x80 => some (.group (group80 p66))
  | 0x81 => some (.group group81)
  | 0x83 => some (.group (group83 v))
  | 0x84 => some (.addressed (.testRmR8 p66))
  | 0x85 => some (.addressed (.testRmRv v))
  | 0x88 => some (.addressed (.movRmR8 p66))
  | 0x89 => some (.addressed (.movRmRv v))
  | 0x8A => some (.addressed fun am r => .movRRm8 p66 r am)
  | 0x8B => some (.addressed fun am r => .movRRmv v r am)
  | 0xA0 => some (.moffs (.movAccMoffs8 p66))
  | 0xA1 => some (.moffs (.movAccMoffsv v))
  | 0xA2 => some (.moffs (.movMoffsAcc8 p66))
  | 0xA3 => some (.moffs (.movMoffsAccv v))
  | 0xA8 => some (.imm8 (.testAccImm8 p66))
  | 0xA9 => some (.immv .testAccImmv)
  | 0xB0 => some (.imm8 (.movRImm8 p66 0))
  | 0xB1 => some (.imm8 (.movRImm8 p66 1))
  | 0xB2 => some (.imm8 (.movRImm8 p66 2))
  | 0xB3 => some (.imm8 (.movRImm8 p66 3))
  | 0xB4 => some (.imm8 (.movRImm8 p66 4))
  | 0xB5 => some (.imm8 (.movRImm8 p66 5))
  | 0xB6 => some (.imm8 (.movRImm8 p66 6))
  | 0xB7 => some (.imm8 (.movRImm8 p66 7))
  | 0xB8 => some (.immv (.movRImmv 0))
  | 0xB9 => some (.immv (.movRImmv 1))
  | 0xBA => some (.immv (.movRImmv 2))
  | 0xBB => some (.immv (.movRImmv 3))
  | 0xBC => some (.immv (.movRImmv 4))
  | 0xBD => some (.immv (.movRImmv 5))
  | 0xBE => some (.immv (.movRImmv 6))
  | 0xBF => some (.immv (.movRImmv 7))
  | 0xC6 => some (.group (groupC6 p66))
  | 0xC7 => some (.group groupC7)
  | 0xE9 => some (.immv .jmpRelv)
  | 0xEB => some (.imm8 (.jmpRel8 p66))
  | 0xF6 => some (.group (groupF6 p66))
  | 0xF7 => some (.group (groupF7 v))
  | _ => none

/-! ### The decoder -/

/-- An immediate of the v-size at `off`, and the offset after it (R74). -/
def decodeVImm (src : ByteSource) (v : VSize) (off : Nat) : Except DecodeStop (VImm × Nat) :=
  match v with
  | .v2 => do
    let i ← fetch src off 2
    .ok (.word (BitVec.ofNat 16 i), off + 2)
  | .v4 => do
    let i ← fetch src off 4
    .ok (.dword (BitVec.ofNat 32 i), off + 4)

/-- What follows the addressing bytes (R72). -/
def decodeTail (src : ByteSource) (v : VSize) (tail : Tail) (am : Addressing) (off : Nat) :
    Except DecodeStop (Instr × Nat) :=
  match tail with
  | .done mk => .ok (mk am, off)
  | .imm8 mk => do
    let i ← fetch src off 1
    .ok (mk am (BitVec.ofNat 8 i), off + 1)
  | .immv mk => do
    let (i, off') ← decodeVImm src v off
    .ok (mk am i, off')

/-- The operand bytes at `off` of an opcode byte of the given shape (R72): addressing bytes first, the extension
checked before any immediate is read (R140). -/
def decodeForm (src : ByteSource) (opcode : Nat) (v : VSize) (form : Form) (off : Nat) :
    Except DecodeStop (Instr × Nat) :=
  match form with
  | .addressed mk => do
    let (am, r, off') ← decodeAddressing src off
    .ok (mk am r, off')
  | .group pick => do
    let (am, ext, off') ← decodeAddressing src off
    match pick ext with
    | some tail => decodeTail src v tail am off'
    | none => .error (.reservedExtension opcode ext)
  | .imm8 mk => do
    let i ← fetch src off 1
    .ok (mk (BitVec.ofNat 8 i), off + 1)
  | .immv mk => do
    let (i, off') ← decodeVImm src v off
    .ok (mk i, off')
  | .moffs mk => do
    let a ← fetch src off Config.addrWidth
    .ok (mk (BitVec.ofNat 32 a), off + Config.addrWidth)

/-- The opcode byte's row and its operand bytes, the opcode byte having been read (R84). -/
def decodeOpcode (src : ByteSource) (opcode : Nat) (p66 : Bool) (v : VSize) (off : Nat) :
    Except DecodeStop (Instr × Nat) :=
  match opcodeForm opcode p66 v with
  | some form => decodeForm src opcode v form off
  | none => .error (.noCandidate opcode)

/-- The decoder: the instruction at the source's start and its length in bytes. The prefix 0x66 stands in first
position only and turns the v-size from 4 to 2 (R84). -/
def decodeFrom (src : ByteSource) : Except DecodeStop (Instr × Nat) := do
  let b ← fetch src 0 1
  if b = 0x66 then do
    let b' ← fetch src 1 1
    decodeOpcode src b' true .v2 2
  else
    decodeOpcode src b false .v4 1

/-- The decoder on a list of bytes. -/
def decode (bs : List Byte) : Except DecodeStop (Instr × Nat) := decodeFrom (listSource bs)

/-! ### The encoder -/

/-- The prefix byte, where it stands (R84). -/
def p66Bytes (p66 : Bool) : List Byte := if p66 then [0x66#8] else []

/-- Whether the v-size calls for the prefix byte (R84). -/
def VSize.p66 : VSize → Bool
  | .v2 => true
  | .v4 => false

/-- The prefix byte that the v-size calls for (R84). -/
def VSize.bytes66 (v : VSize) : List Byte := p66Bytes v.p66

/-- An immediate of the v-size, little-endian (R74). -/
def VImm.bytes : VImm → List Byte
  | .word i => leBytes 2 i.toNat
  | .dword i => leBytes 4 i.toNat

/-- The `mod` field that a displacement has (`DLEN`, R76). -/
def Disp.mod : Disp → Nat
  | .none => 0
  | .disp8 _ => 1
  | .disp32 _ => 2

/-- The bytes of a displacement, little-endian (R74, R76). -/
def Disp.bytes : Disp → List Byte
  | .none => []
  | .disp8 d => [d]
  | .disp32 d => leBytes 4 d.toNat

/-- The three fields of an addressing byte or of a SIB byte: bits 7:6, 5:3 and 2:0 (R76, R77). -/
def fields233 (hi mid lo : Nat) : Byte := BitVec.ofNat 8 (hi * 64 + mid * 8 + lo)

/-- The addressing bytes of an operand and a `reg` field (R76 to R78). -/
def encodeAddressing (am : Addressing) (reg : Reg) : List Byte :=
  match am with
  | .reg i => [fields233 3 reg.val i.val]
  | .base b d => fields233 d.mod reg.val b.val :: d.bytes
  | .abs d => fields233 0 reg.val 5 :: leBytes 4 d.toNat
  | .sib scale index b d => fields233 d.mod reg.val 4 :: fields233 scale.val index.val b.val :: d.bytes
  | .sibAbs scale index d => fields233 0 reg.val 4 :: fields233 scale.val index.val 5 :: leBytes 4 d.toNat

/-- The bytes of an instruction, lowest address first: prefix, opcode byte, addressing bytes, immediate (R72, R81,
R83, R84). -/
def encode : Instr → List Byte
  | .addRmR8 p66 am r => p66Bytes p66 ++ 0x00#8 :: encodeAddressing am r
  | .addRmRv v am r => v.bytes66 ++ 0x01#8 :: encodeAddressing am r
  | .addRRm8 p66 r am => p66Bytes p66 ++ 0x02#8 :: encodeAddressing am r
  | .addRRmv v r am => v.bytes66 ++ 0x03#8 :: encodeAddressing am r
  | .addAccImm8 p66 imm => p66Bytes p66 ++ [0x04#8, imm]
  | .addAccImmv imm => imm.size.bytes66 ++ 0x05#8 :: imm.bytes
  | .addRmImm8 p66 am imm => p66Bytes p66 ++ 0x80#8 :: (encodeAddressing am 0 ++ [imm])
  | .addRmImmv am imm => imm.size.bytes66 ++ 0x81#8 :: (encodeAddressing am 0 ++ imm.bytes)
  | .addRmSImm8 v am imm => v.bytes66 ++ 0x83#8 :: (encodeAddressing am 0 ++ [imm])
  | .orRmR8 p66 am r => p66Bytes p66 ++ 0x08#8 :: encodeAddressing am r
  | .orRmRv v am r => v.bytes66 ++ 0x09#8 :: encodeAddressing am r
  | .orRRm8 p66 r am => p66Bytes p66 ++ 0x0A#8 :: encodeAddressing am r
  | .orRRmv v r am => v.bytes66 ++ 0x0B#8 :: encodeAddressing am r
  | .orAccImm8 p66 imm => p66Bytes p66 ++ [0x0C#8, imm]
  | .orAccImmv imm => imm.size.bytes66 ++ 0x0D#8 :: imm.bytes
  | .orRmImm8 p66 am imm => p66Bytes p66 ++ 0x80#8 :: (encodeAddressing am 1 ++ [imm])
  | .orRmImmv am imm => imm.size.bytes66 ++ 0x81#8 :: (encodeAddressing am 1 ++ imm.bytes)
  | .orRmSImm8 v am imm => v.bytes66 ++ 0x83#8 :: (encodeAddressing am 1 ++ [imm])
  | .andRmR8 p66 am r => p66Bytes p66 ++ 0x20#8 :: encodeAddressing am r
  | .andRmRv v am r => v.bytes66 ++ 0x21#8 :: encodeAddressing am r
  | .andRRm8 p66 r am => p66Bytes p66 ++ 0x22#8 :: encodeAddressing am r
  | .andRRmv v r am => v.bytes66 ++ 0x23#8 :: encodeAddressing am r
  | .andAccImm8 p66 imm => p66Bytes p66 ++ [0x24#8, imm]
  | .andAccImmv imm => imm.size.bytes66 ++ 0x25#8 :: imm.bytes
  | .andRmImm8 p66 am imm => p66Bytes p66 ++ 0x80#8 :: (encodeAddressing am 4 ++ [imm])
  | .andRmImmv am imm => imm.size.bytes66 ++ 0x81#8 :: (encodeAddressing am 4 ++ imm.bytes)
  | .andRmSImm8 v am imm => v.bytes66 ++ 0x83#8 :: (encodeAddressing am 4 ++ [imm])
  | .subRmR8 p66 am r => p66Bytes p66 ++ 0x28#8 :: encodeAddressing am r
  | .subRmRv v am r => v.bytes66 ++ 0x29#8 :: encodeAddressing am r
  | .subRRm8 p66 r am => p66Bytes p66 ++ 0x2A#8 :: encodeAddressing am r
  | .subRRmv v r am => v.bytes66 ++ 0x2B#8 :: encodeAddressing am r
  | .subAccImm8 p66 imm => p66Bytes p66 ++ [0x2C#8, imm]
  | .subAccImmv imm => imm.size.bytes66 ++ 0x2D#8 :: imm.bytes
  | .subRmImm8 p66 am imm => p66Bytes p66 ++ 0x80#8 :: (encodeAddressing am 5 ++ [imm])
  | .subRmImmv am imm => imm.size.bytes66 ++ 0x81#8 :: (encodeAddressing am 5 ++ imm.bytes)
  | .subRmSImm8 v am imm => v.bytes66 ++ 0x83#8 :: (encodeAddressing am 5 ++ [imm])
  | .xorRmR8 p66 am r => p66Bytes p66 ++ 0x30#8 :: encodeAddressing am r
  | .xorRmRv v am r => v.bytes66 ++ 0x31#8 :: encodeAddressing am r
  | .xorRRm8 p66 r am => p66Bytes p66 ++ 0x32#8 :: encodeAddressing am r
  | .xorRRmv v r am => v.bytes66 ++ 0x33#8 :: encodeAddressing am r
  | .xorAccImm8 p66 imm => p66Bytes p66 ++ [0x34#8, imm]
  | .xorAccImmv imm => imm.size.bytes66 ++ 0x35#8 :: imm.bytes
  | .xorRmImm8 p66 am imm => p66Bytes p66 ++ 0x80#8 :: (encodeAddressing am 6 ++ [imm])
  | .xorRmImmv am imm => imm.size.bytes66 ++ 0x81#8 :: (encodeAddressing am 6 ++ imm.bytes)
  | .xorRmSImm8 v am imm => v.bytes66 ++ 0x83#8 :: (encodeAddressing am 6 ++ [imm])
  | .cmpRmR8 p66 am r => p66Bytes p66 ++ 0x38#8 :: encodeAddressing am r
  | .cmpRmRv v am r => v.bytes66 ++ 0x39#8 :: encodeAddressing am r
  | .cmpRRm8 p66 r am => p66Bytes p66 ++ 0x3A#8 :: encodeAddressing am r
  | .cmpRRmv v r am => v.bytes66 ++ 0x3B#8 :: encodeAddressing am r
  | .cmpAccImm8 p66 imm => p66Bytes p66 ++ [0x3C#8, imm]
  | .cmpAccImmv imm => imm.size.bytes66 ++ 0x3D#8 :: imm.bytes
  | .cmpRmImm8 p66 am imm => p66Bytes p66 ++ 0x80#8 :: (encodeAddressing am 7 ++ [imm])
  | .cmpRmImmv am imm => imm.size.bytes66 ++ 0x81#8 :: (encodeAddressing am 7 ++ imm.bytes)
  | .cmpRmSImm8 v am imm => v.bytes66 ++ 0x83#8 :: (encodeAddressing am 7 ++ [imm])
  | .testRmR8 p66 am r => p66Bytes p66 ++ 0x84#8 :: encodeAddressing am r
  | .testRmRv v am r => v.bytes66 ++ 0x85#8 :: encodeAddressing am r
  | .testAccImm8 p66 imm => p66Bytes p66 ++ [0xA8#8, imm]
  | .testAccImmv imm => imm.size.bytes66 ++ 0xA9#8 :: imm.bytes
  | .testRmImm8 p66 am imm => p66Bytes p66 ++ 0xF6#8 :: (encodeAddressing am 0 ++ [imm])
  | .testRmImmv am imm => imm.size.bytes66 ++ 0xF7#8 :: (encodeAddressing am 0 ++ imm.bytes)
  | .notRm8 p66 am => p66Bytes p66 ++ 0xF6#8 :: encodeAddressing am 2
  | .notRmv v am => v.bytes66 ++ 0xF7#8 :: encodeAddressing am 2
  | .negRm8 p66 am => p66Bytes p66 ++ 0xF6#8 :: encodeAddressing am 3
  | .negRmv v am => v.bytes66 ++ 0xF7#8 :: encodeAddressing am 3
  | .movRmR8 p66 am r => p66Bytes p66 ++ 0x88#8 :: encodeAddressing am r
  | .movRmRv v am r => v.bytes66 ++ 0x89#8 :: encodeAddressing am r
  | .movRRm8 p66 r am => p66Bytes p66 ++ 0x8A#8 :: encodeAddressing am r
  | .movRRmv v r am => v.bytes66 ++ 0x8B#8 :: encodeAddressing am r
  | .movAccMoffs8 p66 addr => p66Bytes p66 ++ 0xA0#8 :: leBytes Config.addrWidth addr.toNat
  | .movAccMoffsv v addr => v.bytes66 ++ 0xA1#8 :: leBytes Config.addrWidth addr.toNat
  | .movMoffsAcc8 p66 addr => p66Bytes p66 ++ 0xA2#8 :: leBytes Config.addrWidth addr.toNat
  | .movMoffsAccv v addr => v.bytes66 ++ 0xA3#8 :: leBytes Config.addrWidth addr.toNat
  | .movRImm8 p66 r imm => p66Bytes p66 ++ [BitVec.ofNat 8 (0xB0 + r.val), imm]
  | .movRImmv r imm => imm.size.bytes66 ++ BitVec.ofNat 8 (0xB8 + r.val) :: imm.bytes
  | .movRmImm8 p66 am imm => p66Bytes p66 ++ 0xC6#8 :: (encodeAddressing am 0 ++ [imm])
  | .movRmImmv am imm => imm.size.bytes66 ++ 0xC7#8 :: (encodeAddressing am 0 ++ imm.bytes)
  | .jmpRelv disp => disp.size.bytes66 ++ 0xE9#8 :: disp.bytes
  | .jmpRel8 p66 disp => p66Bytes p66 ++ [0xEB#8, disp]

/-! ### Words as spec/opcode_table.json numbers them -/

/-- The bytes, lowest address first, of `k` 16-bit words whose bits are numbered as the table numbers them: in each
word the byte at the lower address stands in bits 15:8 (R89: `K = (opcode byte << 8) | next byte`). -/
def tableWordsBytes : Nat → Nat → List Byte
  | 0, _ => []
  | k + 1, w => BitVec.ofNat 8 (w / 256) :: BitVec.ofNat 8 w :: tableWordsBytes k (w / 65536)

/-- The instruction bytes that a table word of `nbits` bits stands for, zeros after them up to the longest instruction
(log entry 13). A word of at most 8 bits is an opcode byte alone. -/
def tableBytes (nbits w : Nat) : List Byte :=
  let bs := if nbits ≤ 8 then [BitVec.ofNat 8 w] else tableWordsBytes ((nbits + 15) / 16) w
  (bs ++ List.replicate Config.longestInstruction 0#8).take Config.longestInstruction

/-- The instruction that the decoder reads from a word of the opcode table. -/
def decodeTableWord (nbits w : Nat) : Option Instr :=
  match decode (tableBytes nbits w) with
  | .ok (i, _) => some i
  | .error _ => none

end Sys2Proof
end

