-- ==== Sys2Proof/Machine/State.lean ====
section
/-! DEFINITION. The state of the machine as plain data: the CPU state the spec makes persistent (spec/10_state.md
R20 to R32), memory (spec/20_memory.md R50, R56), the launch parameters the spec leaves open (spec/00_scope.md R9), and
the engine's own handler state machine with its latches (spec/10_state.md R33; spec/41_handler_protocol.md R146). The
faults and refusals, and the state right after reset (R34, R290). -/

namespace Sys2Proof.Machine

/-! ### Flags (R28) -/

/-- The four status flags, "four independent Booleans" (R28). There is no packed flags word and no other flag. -/
structure Flags where
  sf : Bool
  zf : Bool
  of : Bool
  cf : Bool
  deriving DecidableEq, Repr

/-- The name that `set_flag` takes (R108). -/
inductive FlagName where
  | sf
  | zf
  | of
  | cf
  deriving DecidableEq, Repr

/-! ### Operations and commands (R71 to R73) -/

/-- The arithmetic operations (R73). -/
inductive ArithOp where
  | add
  | sub
  | cmp
  deriving DecidableEq, Repr

/-- The bitwise operations (R73). -/
inductive BitOp where
  | and
  | or
  | xor
  | test
  deriving DecidableEq, Repr

/-- The operations of the two-operand handler forms (R72). -/
inductive AluOp where
  | arith (op : ArithOp)
  | bitw (op : BitOp)
  deriving DecidableEq, Repr

/-- The unary operations (R73). -/
inductive UnOp where
  | neg
  | not
  deriving DecidableEq, Repr

/-- The command tuple `(hsel, op, w, iw, reg3)` as the dispatcher issues it, with the field sizes of R71; codes that
name nothing are representable here and are refused in S0. -/
structure Command where
  hsel : Fin 16
  op : Fin 16
  w : Fin 8
  iw : Fin 8
  reg3 : Reg
  deriving DecidableEq, Repr

/-- The handler forms with the operations each allows (R72): what a command names once S0 has passed it. -/
inductive Handler where
  | movRImm (w : Width) (reg3 : Reg)
  | movRmImm (w : Width)
  | movRmR (w : Width)
  | movRRm (w : Width)
  | movAccMoffs (w : Width)
  | movMoffsAcc (w : Width)
  | aluAccImm (op : AluOp) (w iw : Width)
  | aluRmImm (op : AluOp) (w iw : Width)
  | aluRmR (op : AluOp) (w : Width)
  | aluRRm (op : AluOp) (w : Width)
  | unaryRm (op : UnOp) (w : Width)
  | jmpRel (w : Width)
  deriving DecidableEq, Repr

/-! ### Operand descriptors (R14) -/

/-- The operand descriptor `RM`: `Reg(i, w)` or `Mem(addr, w)` (R14, R15). -/
inductive RM where
  | reg (i : Reg) (w : Width)
  | mem (addr : Word) (w : Width)
  deriving DecidableEq, Repr

/-- The width that the descriptor carries (R15). -/
def RM.width : RM → Width
  | .reg _ w => w
  | .mem _ w => w

/-- The register-field descriptor `R`: its value, read as a register index or an opcode extension, and its width
(R14, R15). -/
structure RField where
  val : Reg
  w : Width
  deriving DecidableEq, Repr

/-! ### Why the machine stops -/

/-- The kind of a memory access (R264). -/
inductive AccessKind where
  | read
  | write
  deriving DecidableEq, Repr

/-- The three terminal faults (R262 to R264, R266). A fault is the end of the run. -/
inductive Fault where
  /-- Fault number 1, raised by a handler's S0 on an illegal command (R262). No program can cause it. Safe: the spec's
  own stop. -/
  | invariantViolation (cmd : Command)
  /-- Fault number 2, raised by the dispatcher when no candidate matches (R263): the address of the first byte and the
  opcode byte. Safe: the spec's own stop. -/
  | decodeError (opaddr : Word) (opcode : Byte)
  /-- Fault number 3, raised by a memory access that `MemAdmit` refuses (R264). Safe: the spec's own stop. -/
  | memoryFault (addr : Word) (n : Nat) (kind : AccessKind)
  deriving DecidableEq, Repr

/-- What the model gives no meaning. -/
inductive Refusal where
  /-- Raised by an arm of `exec` whose instruction has no meaning yet; no arm is of this kind. Safe. -/
  | notModelled (mnemonic : String)
  /-- Raised by `step` where a handler is still in progress: "A model has no step that starts a handler while another is
  in progress" (R135, U19; log entry 20). Safe. -/
  | engineBusy
  deriving DecidableEq, Repr

/-! ### The engine's own state (R33, R146) -/

/-- The states of the instruction-handler state machine (R146). -/
inductive Phase where
  /-- waits for a command -/
  | idle
  /-- S0 -/
  | checkCmd
  /-- S1 -/
  | capture
  /-- S2 -/
  | decode
  /-- S3 -/
  | checkExt
  | rollback
  /-- S4 -/
  | fetchImm
  /-- S5 -/
  | readOps
  /-- S6 -/
  | execute
  /-- S7 -/
  | writeback
  /-- S8 -/
  | flags
  /-- S9 -/
  | commit
  /-- terminal; records the fault -/
  | fault (f : Fault)
  deriving DecidableEq, Repr

/-- The handler state machine and its latches (R33). None of the latches survives a return to the dispatcher. -/
structure Engine where
  phase : Phase
  /-- the command being handled -/
  cmd : Option Command
  /-- the handler that S0 found the command to name -/
  handler : Option Handler
  /-- the pointer captured at handler entry -/
  ip0 : Word
  rm : RM
  r : RField
  /-- the fetched immediate, address or displacement -/
  imm : Nat
  a : Nat
  b : Nat
  /-- the unmasked result, "unbounded integer" (R110) -/
  tmp : Nat
  /-- the masked result -/
  res : Nat
  deriving DecidableEq, Repr

/-- `IDLE` with no command in progress (R290). The latches' values are DESIGN CHOICE (log entry 7): R34 leaves them
unspecified and each is written before it is read. -/
def Engine.idle : Engine where
  phase := .idle
  cmd := none
  handler := none
  ip0 := 0#32
  rm := .reg 0 .w1
  r := ⟨0, .w1⟩
  imm := 0
  a := 0
  b := 0
  tmp := 0
  res := 0

/-! ### The state -/

/-- Memory: the bytes that differ from what an unlisted address reads as, by rising address (R50; log entry 4). -/
abbrev Memory := List Host.Cell


/-- The whole state of the machine (R20, R33, R50, R9). -/
structure State where
  /-- `x[0]` to `x[7]` (R21) -/
  regs : Vector Word 8
  /-- the instruction pointer (R25) -/
  ip : Word
  /-- SF, ZF, OF, CF (R28) -/
  flags : Flags
  /-- memory (R50, R56) -/
  mem : Memory
  /-- the launch parameter `MEM_SIZE`, at most `2^32` (R9, R56; log entry 5) -/
  memSize : Nat
  /-- the launch parameter `HALT_ADDR` (R9, R296; log entry 6) -/
  haltAddr : Word
  /-- the handler state machine (R33, R146) -/
  engine : Engine
  deriving DecidableEq, Repr

/-- The state right after reset: the handler state machine in IDLE (R34, R290). The spec gives registers, flags, ip,
memory and the launch parameters no value; the values here are DESIGN CHOICE (log entries 1 to 6). -/
def State.reset : State where
  regs := Vector.replicate 8 0#32
  ip := 0#32
  flags := ⟨false, false, false, false⟩
  mem := []
  memSize := Config.addressSpace
  haltAddr := 0xFFFFFFFF#32
  engine := Engine.idle

end Sys2Proof.Machine
end

