-- ==== Sys2Proof/Machine/Width.lean ====
section
/-! DEFINITION. The sign extension and truncation unit (spec/40_width_flag_primitives.md R100 to R107), over
non-negative mathematical integers as spec/00_scope.md R10 has it. -/

namespace Sys2Proof

/-- `MOD(w) = 2^(8w)` (R100). -/
def Width.mod (w : Width) : Nat := 2 ^ (8 * w.bytes)

/-- `MAX(w) = 2^(8w) - 1` (R100). -/
def Width.max (w : Width) : Nat := 2 ^ (8 * w.bytes) - 1

end Sys2Proof

namespace Sys2Proof.Machine

/-- `trunc_w(v) = v mod MOD(w)` (R102). -/
def trunc (w : Width) (v : Nat) : Nat := v % w.mod

/-- `signbit_w(v) = (v >> (8w - 1)) & 1`, as a Boolean, of any non-negative integer (R103). -/
def signbit (w : Width) (v : Nat) : Bool := v / 2 ^ (8 * w.bytes - 1) % 2 == 1

/-- `iszero_w(v) = (trunc_w(v) == 0)` (R104). -/
def iszero (w : Width) (v : Nat) : Bool := trunc w v == 0

/-- `sext_{iw->w}(v)`, an unsigned `w`-byte pattern (R105). -/
def sext (iw w : Width) (v : Nat) : Nat := if signbit iw v then v + (w.mod - iw.mod) else v

/-- `signed_w(v)`, the two's-complement reading (R107). -/
def signed (w : Width) (v : Nat) : Int := if signbit w v then (v : Int) - w.mod else v

end Sys2Proof.Machine
end

