-- ==== Sys2Proof/Machine/Flags.lean ====
section
/-! DEFINITION. The status-flag encoder and the ALU functions (spec/40_width_flag_primitives.md R108, R110, R114 to
R116, R118). Pure functions; nothing here reads the machine's state. -/

namespace Sys2Proof.Machine

/-- `set_flag(name, bool)`: "It sets that one flag to the given Boolean and changes no other flag" (R108). -/
def Flags.set (f : Flags) (name : FlagName) (b : Bool) : Flags :=
  match name with
  | .sf => { f with sf := b }
  | .zf => { f with zf := b }
  | .of => { f with of := b }
  | .cf => { f with cf := b }

/-! ### Arithmetic (R110) -/

/-- The addend `b'`: `b` for ADD, `MOD(w) - b` for SUB and CMP, never reduced (R110; spec/90_conflicts.md C3). -/
def addend (op : ArithOp) (b : Nat) (w : Width) : Nat :=
  match op with
  | .add => b
  | .sub => w.mod - b
  | .cmp => w.mod - b

/-- The unmasked sum `tmp = a + b'` (R110). -/
def arithTmp (op : ArithOp) (a b : Nat) (w : Width) : Nat := a + addend op b w

/-- The flag writes of an arithmetic commit from the unmasked sum: SF, then OF, then ZF; CF is not written (R110, R118,
R180). -/
def arithFlags (w : Width) (tmp : Nat) (f : Flags) : Flags :=
  ((f.set .sf (signbit w tmp)).set .of (decide (w.max < tmp))).set .zf (iszero w tmp)

/-! ### Bitwise (R114) -/

/-- `tmp` of `Bitw` (R114). -/
def bitwTmp (op : BitOp) (a b : Nat) : Nat :=
  match op with
  | .and => a &&& b
  | .test => a &&& b
  | .or => a ||| b
  | .xor => a ^^^ b

/-- The flag writes of a bitwise commit: OF and CF cleared, then SF, then ZF (R114, R118, R210). -/
def bitwFlags (w : Width) (tmp : Nat) (f : Flags) : Flags :=
  (((f.set .of false).set .cf false).set .sf (signbit w tmp)).set .zf (iszero w tmp)

/-! ### Both two-operand families -/

/-- The unmasked result of a two-operand operation: `a` the value of the operand in
the destination position, the left one also for CMP and TEST (R90), and `b` the source's (R180, R210). -/
def aluTmp (op : AluOp) (a b : Nat) (w : Width) : Nat :=
  match op with
  | .arith o => arithTmp o a b w
  | .bitw o => bitwTmp o a b

/-- The flag writes of a two-operand operation (R180, R210). -/
def aluFlags (op : AluOp) (w : Width) (tmp : Nat) (f : Flags) : Flags :=
  match op with
  | .arith _ => arithFlags w tmp f
  | .bitw _ => bitwFlags w tmp f

/-- The column "writes result back" of R73: CMP and TEST "write no destination" (R90). -/
def AluOp.writesBack : AluOp → Bool
  | .arith .add => true
  | .arith .sub => true
  | .arith .cmp => false
  | .bitw .and => true
  | .bitw .or => true
  | .bitw .xor => true
  | .bitw .test => false

/-! ### Unary (R115, R116) -/

/-- The unmasked result: `Not(a, w) = MAX(w) - a` (R115), and `Not(a, w) + 1` for NEG (R116). -/
def unaryTmp (op : UnOp) (a : Nat) (w : Width) : Nat :=
  match op with
  | .not => w.max - a
  | .neg => w.max - a + 1

/-- The flag writes of a unary commit from the operand before the operation: none for NOT, `CF <- (a == 0)` for NEG
(R241, R242). -/
def unaryFlags (op : UnOp) (a : Nat) (f : Flags) : Flags :=
  match op with
  | .not => f
  | .neg => f.set .cf (a == 0)

end Sys2Proof.Machine
end

