-- ==== Sys2Proof/Machine/Ops.lean ====
section
/-! DEFINITION. The named operations over registers, memory and the instruction pointer (spec/10_state.md R22, R23;
spec/20_memory.md R51, R52; spec/41_handler_protocol.md R139). There is no exception entry and no return from one to
share (spec/60_exceptions.md R269, R270): a fault ends the run (R266). -/

namespace Sys2Proof.Machine

/-! ### Memory as a list in one canonical form (log entry 4) -/

/-- The byte at an address. -/
def Memory.get (m : Memory) (a : Nat) : Byte :=
  match m with
  | [] => Config.unlistedByte
  | c :: cs => if c.1 = a then c.2 else Memory.get cs a

/-- The cell for a byte, or none where an unlisted address reads as that byte anyway. -/
def Memory.cell (a : Nat) (b : Byte) : Memory := if b = Config.unlistedByte then [] else [(a, b)]

/-- Memory with one byte written, the canonical form kept. -/
def Memory.set (m : Memory) (a : Nat) (b : Byte) : Memory :=
  match m with
  | [] => Memory.cell a b
  | c :: cs =>
    if a < c.1 then Memory.cell a b ++ c :: cs
    else if a = c.1 then Memory.cell a b ++ cs
    else c :: Memory.set cs a b

/-- The canonical form: addresses strictly rising, and no entry equal to what an unlisted address reads as. -/
def Memory.wf (m : Memory) : Bool :=
  decide (m.Pairwise fun c d => c.1 < d.1) && m.all fun c => c.2 != Config.unlistedByte

/-- The `n` bytes from an address up. -/
def Memory.getBytes (m : Memory) (a : Nat) : Nat → List Byte
  | 0 => []
  | n + 1 => m.get a :: Memory.getBytes m (a + 1) n

/-- Memory with a byte string written from an address up. -/
def Memory.setBytes (m : Memory) (a : Nat) : List Byte → Memory
  | [] => m
  | b :: bs => Memory.setBytes (m.set a b) (a + 1) bs

/-! ### Memory accesses (R51, R52, R56) -/

/-- The byte that memory holds at an address. -/
def State.byteAt (s : State) (a : Nat) : Byte := s.mem.get a

/-- `MemAdmit(addr, n)`, at its default `addr + n <= MEM_SIZE` (R9, R56). -/
def State.memAdmit (s : State) (addr : Word) (n : Nat) : Bool := decide (addr.toNat + n ≤ s.memSize)

/-- `MemRead(addr, n)`, little-endian (R51). -/
def State.memRead (s : State) (addr : Word) (n : Nat) : Except Fault Nat :=
  if s.memAdmit addr n then .ok (leNat (s.mem.getBytes addr.toNat n))
  else .error (.memoryFault addr n .read)

/-- `MemWrite(addr, n, v)`, little-endian; no byte is changed where the access is not admitted (R52). -/
def State.memWrite (s : State) (addr : Word) (n v : Nat) : Except Fault State :=
  if s.memAdmit addr n then .ok { s with mem := s.mem.setBytes addr.toNat (leBytes n v) }
  else .error (.memoryFault addr n .write)

/-! ### Registers (R22, R23) -/

/-- The full register `x[i]` (R12). -/
def State.reg (s : State) (i : Reg) : Word := s.regs.get i

/-- `x[i] <- v`. -/
def State.setReg (s : State) (i : Reg) (v : Word) : State := { s with regs := s.regs.set i.val v i.isLt }

/-- `RegRead(i, w)`, the low `w` bytes of register `i`, for every index alike (R22; log entry 8). -/
def State.regRead (s : State) (i : Reg) (w : Width) : Nat := (s.reg i).toNat % w.mod

/-- `RegWrite(i, w, v)`: `x[i] <- x[i][31:8w] ++ v`, the upper bytes kept (R23). -/
def State.regWrite (s : State) (i : Reg) (w : Width) (v : Nat) : State :=
  s.setReg i (BitVec.ofNat 32 ((s.reg i).toNat / w.mod * w.mod + trunc w v))

/-! ### Flags and the instruction pointer -/

/-- The flags replaced by what the flag encoder's writes make of them (R108). -/
def State.setFlags (s : State) (f : Flags) : State := { s with flags := f }

/-- `ip <- t` (R12). -/
def State.setIp (s : State) (t : Word) : State := { s with ip := t }

/-- `ip <- (ip + n) mod 2^32` (R25, R139). -/
def State.advance (s : State) (n : Nat) : State := s.setIp (s.ip + BitVec.ofNat 32 n)

/-- `FetchImm(n)` (R139): the little-endian value at `ip`, and the state with `ip` past it. -/
def State.fetchImm (s : State) (n : Nat) : Except Fault (Nat × State) := do
  let v ← s.memRead s.ip n
  .ok (v, s.advance n)

/-- The answer of a meaning that can only go on or fault. -/
def outcome (r : Except Fault State) : Host.Outcome State Fault Refusal :=
  match r with
  | .ok s => .next s
  | .error f => .fault f

/-! ### Fetching an instruction (R60, R84) -/

/-- The decoder's byte source at `ip`: what `FetchImm(n)` reads once `ip` has advanced by `off` (R139). -/
def State.fetchSource (s : State) : ByteSource := fun off n =>
  match s.memRead (s.ip + BitVec.ofNat 32 off) n with
  | .ok v => some v
  | .error _ => none

/-- The fault that a decoder's stop is, at the instruction that starts at `ip`: an unadmitted instruction byte (R264),
or exhaustion of the candidates (R86, R87, R263). -/
def State.stopFault (s : State) : DecodeStop → Fault
  | .unreadable off n => .memoryFault (s.ip + BitVec.ofNat 32 off) n .read
  | .noCandidate opcode => .decodeError s.ip (BitVec.ofNat 8 opcode)
  | .reservedExtension opcode _ => .decodeError s.ip (BitVec.ofNat 8 opcode)

/-- The instruction at `ip` and its length, or the fault that fetching it raises. -/
def State.fetchInstr (s : State) : Except Fault (Instr × Nat) :=
  match decodeFrom s.fetchSource with
  | .ok r => .ok r
  | .error stop => .error (s.stopFault stop)

/-- Store bytes from `ip` up, each at its address modulo `2^32` (R25). -/
def State.placeBytes (s : State) (a : Word) : List Byte → State
  | [] => s
  | b :: bs => State.placeBytes { s with mem := s.mem.set a.toNat b } (a + 1#32) bs

end Sys2Proof.Machine
end

