-- ==== Sys2Proof/Machine/Operands.lean ====
section
/-! DEFINITION. The operand forms: resolving addressing bytes to an operand descriptor (spec/30_encoding.md R76 to R78),
and reading and writing through a descriptor (spec/00_scope.md R14). -/

namespace Sys2Proof

/-- An instruction's displacement as a 32-bit addend: one byte sign-extended, four bytes as they are (R74, R76). -/
def Disp.addend : Disp → Word
  | .none => 0#32
  | .disp8 d => BitVec.ofNat 32 (Machine.sext .w1 .w4 d.toNat)
  | .disp32 d => d

end Sys2Proof

namespace Sys2Proof.Machine

/-- The scaled index `(x[index] << scale) mod 2^32`; index 4 means "no index register" (R77). -/
def scaledIndex (s : State) (scale : Fin 4) (index : Reg) : Word :=
  if index = 4 then 0#32 else BitVec.ofNat 32 ((s.reg index).toNat * 2 ^ scale.val)

/-- The operand descriptor of an addressing term, from the register values of the moment (R76, R77, R130). Address
arithmetic is modulo `2^32`; `x[b]` is the full register whatever the width. -/
def resolve (am : Addressing) (w : Width) (s : State) : RM :=
  match am with
  | .reg i => .reg i w
  | .base b d => .mem (s.reg b + d.addend) w
  | .abs d => .mem d w
  | .sib scale index b d => .mem (s.reg b + scaledIndex s scale index + d.addend) w
  | .sibAbs scale index d => .mem (scaledIndex s scale index + d) w

/-- `ReadRM(RM)` (R14). -/
def State.readRM (s : State) (rm : RM) : Except Fault Nat :=
  match rm with
  | .reg i w => .ok (s.regRead i w)
  | .mem addr w => s.memRead addr w.bytes

/-- `WriteRM(RM, v)` (R14). -/
def State.writeRM (s : State) (rm : RM) (v : Nat) : Except Fault State :=
  match rm with
  | .reg i w => .ok (s.regWrite i w v)
  | .mem addr w => s.memWrite addr w.bytes v

/-- Whether an access through the descriptor is admitted: always for a register, by `MemAdmit` for memory (R51, R52). -/
def State.admits (s : State) (rm : RM) : Bool :=
  match rm with
  | .reg _ _ => true
  | .mem addr w => s.memAdmit addr w.bytes

end Sys2Proof.Machine
end

