-- ==== Sys2Proof/Machine/Forms.lean ====
section
/-! DEFINITION. The twelve handler forms of spec/30_encoding.md R72 from the operand reads to the flag writes: steps S5 to
S8 of the skeleton (spec/41_handler_protocol.md R140), on a state whose `ip` S2 and S4 have already moved past the
instruction. Operands are read before the one storage write, flags are written last (R141). -/

namespace Sys2Proof.Machine

/-- S7 and S8 of a two-operand operation whose destination is an operand descriptor: write-back unless the operation is
CMP or TEST (R90), then the flags (R180, R210). -/
def aluCommitRM (op : AluOp) (rm : RM) (a b : Nat) (s : State) : Except Fault State := do
  let tmp := aluTmp op a b rm.width
  let s' ← if op.writesBack then s.writeRM rm (trunc rm.width tmp) else .ok s
  .ok (s'.setFlags (aluFlags op rm.width tmp s.flags))

/-- The same with a register destination (R180, R210). -/
def aluCommitReg (op : AluOp) (w : Width) (i : Reg) (a b : Nat) (s : State) : State :=
  let tmp := aluTmp op a b w
  let s' := if op.writesBack then s.regWrite i w (trunc w tmp) else s
  s'.setFlags (aluFlags op w tmp s.flags)

/-- `ALU_ACC_IMM` (R182, R186, R190, R212, R216, R220, R224): register 0 and the immediate sign-extended to `w`. -/
def formAluAccImm (op : AluOp) (w iw : Width) (imm : Nat) (s : State) : Except Fault State :=
  .ok (aluCommitReg op w Config.acc (s.regRead Config.acc w) (sext iw w imm) s)

/-- `ALU_RM_IMM` after its extension check (R183, R187, R191, R213, R217, R221, R225). -/
def formAluRmImm (op : AluOp) (iw : Width) (rm : RM) (imm : Nat) (s : State) : Except Fault State := do
  let a ← s.readRM rm
  aluCommitRM op rm a (sext iw rm.width imm) s

/-- `ALU_RM_R` (R184, R188, R192, R214, R218, R222, R226). -/
def formAluRmR (op : AluOp) (rm : RM) (r : Reg) (s : State) : Except Fault State := do
  let b := s.regRead r rm.width
  let a ← s.readRM rm
  aluCommitRM op rm a b s

/-- `ALU_R_RM` (R185, R189, R193, R215, R219, R223, R227). -/
def formAluRRm (op : AluOp) (r : Reg) (rm : RM) (s : State) : Except Fault State := do
  let b ← s.readRM rm
  .ok (aluCommitReg op rm.width r (s.regRead r rm.width) b s)

/-- `UNARY_RM` after its extension check (R241, R242). -/
def formUnaryRm (op : UnOp) (rm : RM) (s : State) : Except Fault State := do
  let a ← s.readRM rm
  let s' ← s.writeRM rm (trunc rm.width (unaryTmp op a rm.width))
  .ok (s'.setFlags (unaryFlags op a s.flags))

/-- `MOV_R_IMM` (R161). -/
def formMovRImm (w : Width) (r : Reg) (imm : Nat) (s : State) : Except Fault State :=
  .ok (s.regWrite r w imm)

/-- `MOV_RM_IMM` after its extension check (R162). -/
def formMovRmImm (rm : RM) (imm : Nat) (s : State) : Except Fault State :=
  s.writeRM rm imm

/-- `MOV_RM_R` (R163). -/
def formMovRmR (rm : RM) (r : Reg) (s : State) : Except Fault State :=
  s.writeRM rm (s.regRead r rm.width)

/-- `MOV_R_RM` (R164). -/
def formMovRRm (r : Reg) (rm : RM) (s : State) : Except Fault State := do
  let v ← s.readRM rm
  .ok (s.regWrite r rm.width v)

/-- `MOV_ACC_MOFFS` (R165). -/
def formMovAccMoffs (w : Width) (addr : Word) (s : State) : Except Fault State := do
  let v ← s.memRead addr w.bytes
  .ok (s.regWrite Config.acc w v)

/-- `MOV_MOFFS_ACC` (R166). -/
def formMovMoffsAcc (w : Width) (addr : Word) (s : State) : Except Fault State :=
  s.memWrite addr w.bytes (s.regRead Config.acc w)

/-- The target of a relative jump: `(ip + signed_w(d)) mod 2^32`, never truncated to `w` (R250, R251). -/
def jumpTarget (w : Width) (ip : Word) (d : Nat) : Word := ip + BitVec.ofInt 32 (signed w d)

/-- `JMP_REL` (R250). -/
def formJmpRel (w : Width) (d : Nat) (s : State) : Except Fault State :=
  .ok (s.setIp (jumpTarget w s.ip d))

end Sys2Proof.Machine
end

