-- ==== Sys2Proof/Machine/Arithmetic.lean ====
section
/-! DEFINITION. The arithmetic engine, spec/43_arithmetic.md: ADD, SUB and CMP in four forms each (R182 to R193), as S5 to S9 of R140
on a state whose `ip` is past the instruction. -/

namespace Sys2Proof.Machine

/-! ### ADD -/

/-- ADD rm, r at width 1 (R184). -/
def execAddRmR8 (am : Addressing) (r : Reg) (s : State) : Host.Outcome State Fault Refusal :=
  outcome (formAluRmR (.arith .add) (resolve am .w1 s) r s)

/-- ADD rm, r at the v-size (R184). -/
def execAddRmRv (v : VSize) (am : Addressing) (r : Reg) (s : State) : Host.Outcome State Fault Refusal :=
  outcome (formAluRmR (.arith .add) (resolve am v.width s) r s)

/-- ADD r, rm at width 1 (R185). -/
def execAddRRm8 (r : Reg) (am : Addressing) (s : State) : Host.Outcome State Fault Refusal :=
  outcome (formAluRRm (.arith .add) r (resolve am .w1 s) s)

/-- ADD r, rm at the v-size (R185). -/
def execAddRRmv (v : VSize) (r : Reg) (am : Addressing) (s : State) : Host.Outcome State Fault Refusal :=
  outcome (formAluRRm (.arith .add) r (resolve am v.width s) s)

/-- ADD r0, imm at width 1 (R182). -/
def execAddAccImm8 (imm : BitVec 8) (s : State) : Host.Outcome State Fault Refusal :=
  outcome (formAluAccImm (.arith .add) .w1 .w1 imm.toNat s)

/-- ADD r0, imm at the v-size (R182). -/
def execAddAccImmv (imm : VImm) (s : State) : Host.Outcome State Fault Refusal :=
  outcome (formAluAccImm (.arith .add) imm.size.width imm.size.width imm.toNat s)

/-- ADD rm, imm at width 1 (R183). -/
def execAddRmImm8 (am : Addressing) (imm : BitVec 8) (s : State) : Host.Outcome State Fault Refusal :=
  outcome (formAluRmImm (.arith .add) .w1 (resolve am .w1 s) imm.toNat s)

/-- ADD rm, imm at the v-size (R183). -/
def execAddRmImmv (am : Addressing) (imm : VImm) (s : State) : Host.Outcome State Fault Refusal :=
  outcome (formAluRmImm (.arith .add) imm.size.width (resolve am imm.size.width s) imm.toNat s)

/-- ADD rm, 1-byte imm sign-extended to the v-size (R183). -/
def execAddRmSImm8 (v : VSize) (am : Addressing) (imm : BitVec 8) (s : State) : Host.Outcome State Fault Refusal :=
  outcome (formAluRmImm (.arith .add) .w1 (resolve am v.width s) imm.toNat s)

/-! ### SUB -/

/-- SUB rm, r at width 1 (R188). -/
def execSubRmR8 (am : Addressing) (r : Reg) (s : State) : Host.Outcome State Fault Refusal :=
  outcome (formAluRmR (.arith .sub) (resolve am .w1 s) r s)

/-- SUB rm, r at the v-size (R188). -/
def execSubRmRv (v : VSize) (am : Addressing) (r : Reg) (s : State) : Host.Outcome State Fault Refusal :=
  outcome (formAluRmR (.arith .sub) (resolve am v.width s) r s)

/-- SUB r, rm at width 1 (R189). -/
def execSubRRm8 (r : Reg) (am : Addressing) (s : State) : Host.Outcome State Fault Refusal :=
  outcome (formAluRRm (.arith .sub) r (resolve am .w1 s) s)

/-- SUB r, rm at the v-size (R189). -/
def execSubRRmv (v : VSize) (r : Reg) (am : Addressing) (s : State) : Host.Outcome State Fault Refusal :=
  outcome (formAluRRm (.arith .sub) r (resolve am v.width s) s)

/-- SUB r0, imm at width 1 (R186). -/
def execSubAccImm8 (imm : BitVec 8) (s : State) : Host.Outcome State Fault Refusal :=
  outcome (formAluAccImm (.arith .sub) .w1 .w1 imm.toNat s)

/-- SUB r0, imm at the v-size (R186). -/
def execSubAccImmv (imm : VImm) (s : State) : Host.Outcome State Fault Refusal :=
  outcome (formAluAccImm (.arith .sub) imm.size.width imm.size.width imm.toNat s)

/-- SUB rm, imm at width 1 (R187). -/
def execSubRmImm8 (am : Addressing) (imm : BitVec 8) (s : State) : Host.Outcome State Fault Refusal :=
  outcome (formAluRmImm (.arith .sub) .w1 (resolve am .w1 s) imm.toNat s)

/-- SUB rm, imm at the v-size (R187). -/
def execSubRmImmv (am : Addressing) (imm : VImm) (s : State) : Host.Outcome State Fault Refusal :=
  outcome (formAluRmImm (.arith .sub) imm.size.width (resolve am imm.size.width s) imm.toNat s)

/-- SUB rm, 1-byte imm sign-extended to the v-size (R187). -/
def execSubRmSImm8 (v : VSize) (am : Addressing) (imm : BitVec 8) (s : State) : Host.Outcome State Fault Refusal :=
  outcome (formAluRmImm (.arith .sub) .w1 (resolve am v.width s) imm.toNat s)

/-! ### CMP -/

/-- CMP rm, r at width 1 (R192). -/
def execCmpRmR8 (am : Addressing) (r : Reg) (s : State) : Host.Outcome State Fault Refusal :=
  outcome (formAluRmR (.arith .cmp) (resolve am .w1 s) r s)

/-- CMP rm, r at the v-size (R192). -/
def execCmpRmRv (v : VSize) (am : Addressing) (r : Reg) (s : State) : Host.Outcome State Fault Refusal :=
  outcome (formAluRmR (.arith .cmp) (resolve am v.width s) r s)

/-- CMP r, rm at width 1 (R193). -/
def execCmpRRm8 (r : Reg) (am : Addressing) (s : State) : Host.Outcome State Fault Refusal :=
  outcome (formAluRRm (.arith .cmp) r (resolve am .w1 s) s)

/-- CMP r, rm at the v-size (R193). -/
def execCmpRRmv (v : VSize) (r : Reg) (am : Addressing) (s : State) : Host.Outcome State Fault Refusal :=
  outcome (formAluRRm (.arith .cmp) r (resolve am v.width s) s)

/-- CMP r0, imm at width 1 (R190). -/
def execCmpAccImm8 (imm : BitVec 8) (s : State) : Host.Outcome State Fault Refusal :=
  outcome (formAluAccImm (.arith .cmp) .w1 .w1 imm.toNat s)

/-- CMP r0, imm at the v-size (R190). -/
def execCmpAccImmv (imm : VImm) (s : State) : Host.Outcome State Fault Refusal :=
  outcome (formAluAccImm (.arith .cmp) imm.size.width imm.size.width imm.toNat s)

/-- CMP rm, imm at width 1 (R191). -/
def execCmpRmImm8 (am : Addressing) (imm : BitVec 8) (s : State) : Host.Outcome State Fault Refusal :=
  outcome (formAluRmImm (.arith .cmp) .w1 (resolve am .w1 s) imm.toNat s)

/-- CMP rm, imm at the v-size (R191). -/
def execCmpRmImmv (am : Addressing) (imm : VImm) (s : State) : Host.Outcome State Fault Refusal :=
  outcome (formAluRmImm (.arith .cmp) imm.size.width (resolve am imm.size.width s) imm.toNat s)

/-- CMP rm, 1-byte imm sign-extended to the v-size (R191). -/
def execCmpRmSImm8 (v : VSize) (am : Addressing) (imm : BitVec 8) (s : State) : Host.Outcome State Fault Refusal :=
  outcome (formAluRmImm (.arith .cmp) .w1 (resolve am v.width s) imm.toNat s)

end Sys2Proof.Machine
end

