-- ==== Sys2Proof/Machine/Bitwise.lean ====
section
/-! DEFINITION. The bitwise engine, spec/44_bitwise.md: AND, OR and XOR in four forms each (R212 to R223) and TEST (R224 to R226), as
S5 to S9 of R140 on a state whose `ip` is past the instruction. -/

namespace Sys2Proof.Machine

/-! ### AND -/

/-- AND rm, r at width 1 (R214). -/
def execAndRmR8 (am : Addressing) (r : Reg) (s : State) : Host.Outcome State Fault Refusal :=
  outcome (formAluRmR (.bitw .and) (resolve am .w1 s) r s)

/-- AND rm, r at the v-size (R214). -/
def execAndRmRv (v : VSize) (am : Addressing) (r : Reg) (s : State) : Host.Outcome State Fault Refusal :=
  outcome (formAluRmR (.bitw .and) (resolve am v.width s) r s)

/-- AND r, rm at width 1 (R215). -/
def execAndRRm8 (r : Reg) (am : Addressing) (s : State) : Host.Outcome State Fault Refusal :=
  outcome (formAluRRm (.bitw .and) r (resolve am .w1 s) s)

/-- AND r, rm at the v-size (R215). -/
def execAndRRmv (v : VSize) (r : Reg) (am : Addressing) (s : State) : Host.Outcome State Fault Refusal :=
  outcome (formAluRRm (.bitw .and) r (resolve am v.width s) s)

/-- AND r0, imm at width 1 (R212). -/
def execAndAccImm8 (imm : BitVec 8) (s : State) : Host.Outcome State Fault Refusal :=
  outcome (formAluAccImm (.bitw .and) .w1 .w1 imm.toNat s)

/-- AND r0, imm at the v-size (R212). -/
def execAndAccImmv (imm : VImm) (s : State) : Host.Outcome State Fault Refusal :=
  outcome (formAluAccImm (.bitw .and) imm.size.width imm.size.width imm.toNat s)

/-- AND rm, imm at width 1 (R213). -/
def execAndRmImm8 (am : Addressing) (imm : BitVec 8) (s : State) : Host.Outcome State Fault Refusal :=
  outcome (formAluRmImm (.bitw .and) .w1 (resolve am .w1 s) imm.toNat s)

/-- AND rm, imm at the v-size (R213). -/
def execAndRmImmv (am : Addressing) (imm : VImm) (s : State) : Host.Outcome State Fault Refusal :=
  outcome (formAluRmImm (.bitw .and) imm.size.width (resolve am imm.size.width s) imm.toNat s)

/-- AND rm, 1-byte imm sign-extended to the v-size (R213). -/
def execAndRmSImm8 (v : VSize) (am : Addressing) (imm : BitVec 8) (s : State) : Host.Outcome State Fault Refusal :=
  outcome (formAluRmImm (.bitw .and) .w1 (resolve am v.width s) imm.toNat s)

/-! ### OR -/

/-- OR rm, r at width 1 (R218). -/
def execOrRmR8 (am : Addressing) (r : Reg) (s : State) : Host.Outcome State Fault Refusal :=
  outcome (formAluRmR (.bitw .or) (resolve am .w1 s) r s)

/-- OR rm, r at the v-size (R218). -/
def execOrRmRv (v : VSize) (am : Addressing) (r : Reg) (s : State) : Host.Outcome State Fault Refusal :=
  outcome (formAluRmR (.bitw .or) (resolve am v.width s) r s)

/-- OR r, rm at width 1 (R219). -/
def execOrRRm8 (r : Reg) (am : Addressing) (s : State) : Host.Outcome State Fault Refusal :=
  outcome (formAluRRm (.bitw .or) r (resolve am .w1 s) s)

/-- OR r, rm at the v-size (R219). -/
def execOrRRmv (v : VSize) (r : Reg) (am : Addressing) (s : State) : Host.Outcome State Fault Refusal :=
  outcome (formAluRRm (.bitw .or) r (resolve am v.width s) s)

/-- OR r0, imm at width 1 (R216). -/
def execOrAccImm8 (imm : BitVec 8) (s : State) : Host.Outcome State Fault Refusal :=
  outcome (formAluAccImm (.bitw .or) .w1 .w1 imm.toNat s)

/-- OR r0, imm at the v-size (R216). -/
def execOrAccImmv (imm : VImm) (s : State) : Host.Outcome State Fault Refusal :=
  outcome (formAluAccImm (.bitw .or) imm.size.width imm.size.width imm.toNat s)

/-- OR rm, imm at width 1 (R217). -/
def execOrRmImm8 (am : Addressing) (imm : BitVec 8) (s : State) : Host.Outcome State Fault Refusal :=
  outcome (formAluRmImm (.bitw .or) .w1 (resolve am .w1 s) imm.toNat s)

/-- OR rm, imm at the v-size (R217). -/
def execOrRmImmv (am : Addressing) (imm : VImm) (s : State) : Host.Outcome State Fault Refusal :=
  outcome (formAluRmImm (.bitw .or) imm.size.width (resolve am imm.size.width s) imm.toNat s)

/-- OR rm, 1-byte imm sign-extended to the v-size (R217). -/
def execOrRmSImm8 (v : VSize) (am : Addressing) (imm : BitVec 8) (s : State) : Host.Outcome State Fault Refusal :=
  outcome (formAluRmImm (.bitw .or) .w1 (resolve am v.width s) imm.toNat s)

/-! ### XOR -/

/-- XOR rm, r at width 1 (R222). -/
def execXorRmR8 (am : Addressing) (r : Reg) (s : State) : Host.Outcome State Fault Refusal :=
  outcome (formAluRmR (.bitw .xor) (resolve am .w1 s) r s)

/-- XOR rm, r at the v-size (R222). -/
def execXorRmRv (v : VSize) (am : Addressing) (r : Reg) (s : State) : Host.Outcome State Fault Refusal :=
  outcome (formAluRmR (.bitw .xor) (resolve am v.width s) r s)

/-- XOR r, rm at width 1 (R223). -/
def execXorRRm8 (r : Reg) (am : Addressing) (s : State) : Host.Outcome State Fault Refusal :=
  outcome (formAluRRm (.bitw .xor) r (resolve am .w1 s) s)

/-- XOR r, rm at the v-size (R223). -/
def execXorRRmv (v : VSize) (r : Reg) (am : Addressing) (s : State) : Host.Outcome State Fault Refusal :=
  outcome (formAluRRm (.bitw .xor) r (resolve am v.width s) s)

/-- XOR r0, imm at width 1 (R220). -/
def execXorAccImm8 (imm : BitVec 8) (s : State) : Host.Outcome State Fault Refusal :=
  outcome (formAluAccImm (.bitw .xor) .w1 .w1 imm.toNat s)

/-- XOR r0, imm at the v-size (R220). -/
def execXorAccImmv (imm : VImm) (s : State) : Host.Outcome State Fault Refusal :=
  outcome (formAluAccImm (.bitw .xor) imm.size.width imm.size.width imm.toNat s)

/-- XOR rm, imm at width 1 (R221). -/
def execXorRmImm8 (am : Addressing) (imm : BitVec 8) (s : State) : Host.Outcome State Fault Refusal :=
  outcome (formAluRmImm (.bitw .xor) .w1 (resolve am .w1 s) imm.toNat s)

/-- XOR rm, imm at the v-size (R221). -/
def execXorRmImmv (am : Addressing) (imm : VImm) (s : State) : Host.Outcome State Fault Refusal :=
  outcome (formAluRmImm (.bitw .xor) imm.size.width (resolve am imm.size.width s) imm.toNat s)

/-- XOR rm, 1-byte imm sign-extended to the v-size (R221). -/
def execXorRmSImm8 (v : VSize) (am : Addressing) (imm : BitVec 8) (s : State) : Host.Outcome State Fault Refusal :=
  outcome (formAluRmImm (.bitw .xor) .w1 (resolve am v.width s) imm.toNat s)

/-! ### TEST -/

/-- TEST rm, r at width 1 (R226). -/
def execTestRmR8 (am : Addressing) (r : Reg) (s : State) : Host.Outcome State Fault Refusal :=
  outcome (formAluRmR (.bitw .test) (resolve am .w1 s) r s)

/-- TEST rm, r at the v-size (R226). -/
def execTestRmRv (v : VSize) (am : Addressing) (r : Reg) (s : State) : Host.Outcome State Fault Refusal :=
  outcome (formAluRmR (.bitw .test) (resolve am v.width s) r s)

/-- TEST r0, imm at width 1 (R224). -/
def execTestAccImm8 (imm : BitVec 8) (s : State) : Host.Outcome State Fault Refusal :=
  outcome (formAluAccImm (.bitw .test) .w1 .w1 imm.toNat s)

/-- TEST r0, imm at the v-size (R224). -/
def execTestAccImmv (imm : VImm) (s : State) : Host.Outcome State Fault Refusal :=
  outcome (formAluAccImm (.bitw .test) imm.size.width imm.size.width imm.toNat s)

/-- TEST rm, imm at width 1 (R225). -/
def execTestRmImm8 (am : Addressing) (imm : BitVec 8) (s : State) : Host.Outcome State Fault Refusal :=
  outcome (formAluRmImm (.bitw .test) .w1 (resolve am .w1 s) imm.toNat s)

/-- TEST rm, imm at the v-size (R225). -/
def execTestRmImmv (am : Addressing) (imm : VImm) (s : State) : Host.Outcome State Fault Refusal :=
  outcome (formAluRmImm (.bitw .test) imm.size.width (resolve am imm.size.width s) imm.toNat s)

end Sys2Proof.Machine
end

