-- ==== Sys2Proof/Machine/Branch.lean ====
section
/-! DEFINITION. The relative branch, spec/46_branch.md R250 to R252, as S5 to S9 of R140 on a state whose `ip` is past the displacement
("the (already-advanced) pointer"). -/

namespace Sys2Proof.Machine

/-- JMP with a 1-byte displacement (R250). -/
def execJmpRel8 (disp : BitVec 8) (s : State) : Host.Outcome State Fault Refusal :=
  outcome (formJmpRel .w1 disp.toNat s)

/-- JMP with a displacement of the v-size (R250). -/
def execJmpRelv (disp : VImm) (s : State) : Host.Outcome State Fault Refusal :=
  outcome (formJmpRel disp.size.width disp.toNat s)

end Sys2Proof.Machine
end

