-- ==== Sys2Proof/Machine/Move.lean ====
section
/-! DEFINITION. The data-movement handlers, spec/42_data_movement.md R160 to R166, as S5 to S9 of R140 on a state whose `ip` is past
the instruction. No form writes a flag (R160). -/

namespace Sys2Proof.Machine

/-- MOV r, imm at width 1 (R161). -/
def execMovRImm8 (r : Reg) (imm : BitVec 8) (s : State) : Host.Outcome State Fault Refusal :=
  outcome (formMovRImm .w1 r imm.toNat s)

/-- MOV r, imm at the v-size (R161). -/
def execMovRImmv (r : Reg) (imm : VImm) (s : State) : Host.Outcome State Fault Refusal :=
  outcome (formMovRImm imm.size.width r imm.toNat s)

/-- MOV rm, imm at width 1 (R162). -/
def execMovRmImm8 (am : Addressing) (imm : BitVec 8) (s : State) : Host.Outcome State Fault Refusal :=
  outcome (formMovRmImm (resolve am .w1 s) imm.toNat s)

/-- MOV rm, imm at the v-size (R162). -/
def execMovRmImmv (am : Addressing) (imm : VImm) (s : State) : Host.Outcome State Fault Refusal :=
  outcome (formMovRmImm (resolve am imm.size.width s) imm.toNat s)

/-- MOV rm, r at width 1 (R163). -/
def execMovRmR8 (am : Addressing) (r : Reg) (s : State) : Host.Outcome State Fault Refusal :=
  outcome (formMovRmR (resolve am .w1 s) r s)

/-- MOV rm, r at the v-size (R163). -/
def execMovRmRv (v : VSize) (am : Addressing) (r : Reg) (s : State) : Host.Outcome State Fault Refusal :=
  outcome (formMovRmR (resolve am v.width s) r s)

/-- MOV r, rm at width 1 (R164). -/
def execMovRRm8 (r : Reg) (am : Addressing) (s : State) : Host.Outcome State Fault Refusal :=
  outcome (formMovRRm r (resolve am .w1 s) s)

/-- MOV r, rm at the v-size (R164). -/
def execMovRRmv (v : VSize) (r : Reg) (am : Addressing) (s : State) : Host.Outcome State Fault Refusal :=
  outcome (formMovRRm r (resolve am v.width s) s)

/-- MOV r0, @addr at width 1 (R165). -/
def execMovAccMoffs8 (addr : BitVec 32) (s : State) : Host.Outcome State Fault Refusal :=
  outcome (formMovAccMoffs .w1 addr s)

/-- MOV r0, @addr at the v-size (R165). -/
def execMovAccMoffsv (v : VSize) (addr : BitVec 32) (s : State) : Host.Outcome State Fault Refusal :=
  outcome (formMovAccMoffs v.width addr s)

/-- MOV @addr, r0 at width 1 (R166). -/
def execMovMoffsAcc8 (addr : BitVec 32) (s : State) : Host.Outcome State Fault Refusal :=
  outcome (formMovMoffsAcc .w1 addr s)

/-- MOV @addr, r0 at the v-size (R166). -/
def execMovMoffsAccv (v : VSize) (addr : BitVec 32) (s : State) : Host.Outcome State Fault Refusal :=
  outcome (formMovMoffsAcc v.width addr s)

end Sys2Proof.Machine
end

