-- ==== Sys2Proof/Machine/Unary.lean ====
section
/-! DEFINITION. The unary handlers NOT and NEG, spec/45_unary.md R240 to R243, as S5 to S9 of R140 on a state whose `ip` is past the
instruction. -/

namespace Sys2Proof.Machine

/-- NOT rm at width 1 (R241). -/
def execNotRm8 (am : Addressing) (s : State) : Host.Outcome State Fault Refusal :=
  outcome (formUnaryRm .not (resolve am .w1 s) s)

/-- NOT rm at the v-size (R241). -/
def execNotRmv (v : VSize) (am : Addressing) (s : State) : Host.Outcome State Fault Refusal :=
  outcome (formUnaryRm .not (resolve am v.width s) s)

/-- NEG rm at width 1 (R242). -/
def execNegRm8 (am : Addressing) (s : State) : Host.Outcome State Fault Refusal :=
  outcome (formUnaryRm .neg (resolve am .w1 s) s)

/-- NEG rm at the v-size (R242). -/
def execNegRmv (v : VSize) (am : Addressing) (s : State) : Host.Outcome State Fault Refusal :=
  outcome (formUnaryRm .neg (resolve am v.width s) s)

end Sys2Proof.Machine
end

