-- ==== Sys2Proof/Machine/Dispatch.lean ====
section
/-! DEFINITION. One arm per row of spec/opcode_table.json: each calls the meaning of its row. -/

namespace Sys2Proof.Machine

/-- What an instruction does once its bytes have been consumed: S5 to S9 of R140, on a state whose `ip` is past the
instruction (log entry 18). -/
def exec (i : Instr) (s : State) : Host.Outcome State Fault Refusal :=
  match i with
  -- ADD
  | .addRmR8 _ am r => Sys2Proof.Machine.execAddRmR8 am r s
  | .addRmRv v am r => Sys2Proof.Machine.execAddRmRv v am r s
  | .addRRm8 _ r am => Sys2Proof.Machine.execAddRRm8 r am s
  | .addRRmv v r am => Sys2Proof.Machine.execAddRRmv v r am s
  | .addAccImm8 _ imm => Sys2Proof.Machine.execAddAccImm8 imm s
  | .addAccImmv imm => Sys2Proof.Machine.execAddAccImmv imm s
  | .addRmImm8 _ am imm => Sys2Proof.Machine.execAddRmImm8 am imm s
  | .addRmImmv am imm => Sys2Proof.Machine.execAddRmImmv am imm s
  | .addRmSImm8 v am imm => Sys2Proof.Machine.execAddRmSImm8 v am imm s
  -- OR
  | .orRmR8 _ am r => Sys2Proof.Machine.execOrRmR8 am r s
  | .orRmRv v am r => Sys2Proof.Machine.execOrRmRv v am r s
  | .orRRm8 _ r am => Sys2Proof.Machine.execOrRRm8 r am s
  | .orRRmv v r am => Sys2Proof.Machine.execOrRRmv v r am s
  | .orAccImm8 _ imm => Sys2Proof.Machine.execOrAccImm8 imm s
  | .orAccImmv imm => Sys2Proof.Machine.execOrAccImmv imm s
  | .orRmImm8 _ am imm => Sys2Proof.Machine.execOrRmImm8 am imm s
  | .orRmImmv am imm => Sys2Proof.Machine.execOrRmImmv am imm s
  | .orRmSImm8 v am imm => Sys2Proof.Machine.execOrRmSImm8 v am imm s
  -- AND
  | .andRmR8 _ am r => Sys2Proof.Machine.execAndRmR8 am r s
  | .andRmRv v am r => Sys2Proof.Machine.execAndRmRv v am r s
  | .andRRm8 _ r am => Sys2Proof.Machine.execAndRRm8 r am s
  | .andRRmv v r am => Sys2Proof.Machine.execAndRRmv v r am s
  | .andAccImm8 _ imm => Sys2Proof.Machine.execAndAccImm8 imm s
  | .andAccImmv imm => Sys2Proof.Machine.execAndAccImmv imm s
  | .andRmImm8 _ am imm => Sys2Proof.Machine.execAndRmImm8 am imm s
  | .andRmImmv am imm => Sys2Proof.Machine.execAndRmImmv am imm s
  | .andRmSImm8 v am imm => Sys2Proof.Machine.execAndRmSImm8 v am imm s
  -- SUB
  | .subRmR8 _ am r => Sys2Proof.Machine.execSubRmR8 am r s
  | .subRmRv v am r => Sys2Proof.Machine.execSubRmRv v am r s
  | .subRRm8 _ r am => Sys2Proof.Machine.execSubRRm8 r am s
  | .subRRmv v r am => Sys2Proof.Machine.execSubRRmv v r am s
  | .subAccImm8 _ imm => Sys2Proof.Machine.execSubAccImm8 imm s
  | .subAccImmv imm => Sys2Proof.Machine.execSubAccImmv imm s
  | .subRmImm8 _ am imm => Sys2Proof.Machine.execSubRmImm8 am imm s
  | .subRmImmv am imm => Sys2Proof.Machine.execSubRmImmv am imm s
  | .subRmSImm8 v am imm => Sys2Proof.Machine.execSubRmSImm8 v am imm s
  -- XOR
  | .xorRmR8 _ am r => Sys2Proof.Machine.execXorRmR8 am r s
  | .xorRmRv v am r => Sys2Proof.Machine.execXorRmRv v am r s
  | .xorRRm8 _ r am => Sys2Proof.Machine.execXorRRm8 r am s
  | .xorRRmv v r am => Sys2Proof.Machine.execXorRRmv v r am s
  | .xorAccImm8 _ imm => Sys2Proof.Machine.execXorAccImm8 imm s
  | .xorAccImmv imm => Sys2Proof.Machine.execXorAccImmv imm s
  | .xorRmImm8 _ am imm => Sys2Proof.Machine.execXorRmImm8 am imm s
  | .xorRmImmv am imm => Sys2Proof.Machine.execXorRmImmv am imm s
  | .xorRmSImm8 v am imm => Sys2Proof.Machine.execXorRmSImm8 v am imm s
  -- CMP
  | .cmpRmR8 _ am r => Sys2Proof.Machine.execCmpRmR8 am r s
  | .cmpRmRv v am r => Sys2Proof.Machine.execCmpRmRv v am r s
  | .cmpRRm8 _ r am => Sys2Proof.Machine.execCmpRRm8 r am s
  | .cmpRRmv v r am => Sys2Proof.Machine.execCmpRRmv v r am s
  | .cmpAccImm8 _ imm => Sys2Proof.Machine.execCmpAccImm8 imm s
  | .cmpAccImmv imm => Sys2Proof.Machine.execCmpAccImmv imm s
  | .cmpRmImm8 _ am imm => Sys2Proof.Machine.execCmpRmImm8 am imm s
  | .cmpRmImmv am imm => Sys2Proof.Machine.execCmpRmImmv am imm s
  | .cmpRmSImm8 v am imm => Sys2Proof.Machine.execCmpRmSImm8 v am imm s
  -- TEST
  | .testRmR8 _ am r => Sys2Proof.Machine.execTestRmR8 am r s
  | .testRmRv v am r => Sys2Proof.Machine.execTestRmRv v am r s
  | .testAccImm8 _ imm => Sys2Proof.Machine.execTestAccImm8 imm s
  | .testAccImmv imm => Sys2Proof.Machine.execTestAccImmv imm s
  | .testRmImm8 _ am imm => Sys2Proof.Machine.execTestRmImm8 am imm s
  | .testRmImmv am imm => Sys2Proof.Machine.execTestRmImmv am imm s
  -- NOT
  | .notRm8 _ am => Sys2Proof.Machine.execNotRm8 am s
  | .notRmv v am => Sys2Proof.Machine.execNotRmv v am s
  -- NEG
  | .negRm8 _ am => Sys2Proof.Machine.execNegRm8 am s
  | .negRmv v am => Sys2Proof.Machine.execNegRmv v am s
  -- MOV
  | .movRmR8 _ am r => Sys2Proof.Machine.execMovRmR8 am r s
  | .movRmRv v am r => Sys2Proof.Machine.execMovRmRv v am r s
  | .movRRm8 _ r am => Sys2Proof.Machine.execMovRRm8 r am s
  | .movRRmv v r am => Sys2Proof.Machine.execMovRRmv v r am s
  | .movAccMoffs8 _ addr => Sys2Proof.Machine.execMovAccMoffs8 addr s
  | .movAccMoffsv v addr => Sys2Proof.Machine.execMovAccMoffsv v addr s
  | .movMoffsAcc8 _ addr => Sys2Proof.Machine.execMovMoffsAcc8 addr s
  | .movMoffsAccv v addr => Sys2Proof.Machine.execMovMoffsAccv v addr s
  | .movRImm8 _ r imm => Sys2Proof.Machine.execMovRImm8 r imm s
  | .movRImmv r imm => Sys2Proof.Machine.execMovRImmv r imm s
  | .movRmImm8 _ am imm => Sys2Proof.Machine.execMovRmImm8 am imm s
  | .movRmImmv am imm => Sys2Proof.Machine.execMovRmImmv am imm s
  -- JMP
  | .jmpRelv disp => Sys2Proof.Machine.execJmpRelv disp s
  | .jmpRel8 _ disp => Sys2Proof.Machine.execJmpRel8 disp s

end Sys2Proof.Machine
end

