-- ==== Sys2Proof/Machine/Step.lean ====
section
/-! DEFINITION. One step of the machine (spec/30_encoding.md R84, spec/70_reset_and_hazards.md R296): an instruction is
fetched at `ip`, `ip` moves past it, and it runs. The backtracking dispatcher of R84, candidate by candidate, is in
Machine/Protocol.lean; an obligation says that the two agree. -/

namespace Sys2Proof.Machine

/-- One step: one instruction of the dispatcher's loop (R84). At `HALT_ADDR` the run is over and the state stays as it
is (R296; log entry 6). A faulted machine stays faulted (R266), and no instruction starts while a handler is in progress
(R135; log entry 20). -/
def step (s : State) : Host.Outcome State Fault Refusal :=
  match s.engine.phase with
  | .fault f => .fault f
  | .idle =>
    if s.ip = s.haltAddr then .next s
    else
      match s.fetchInstr with
      | .error f => .fault f
      | .ok (i, n) => exec i (s.advance n)
  | _ => .refused .engineBusy

/-- `s` with the instruction that a word of the opcode table stands for stored at `ip`, so that the next step runs it:
the loader of R292. The launch parameters and the engine are changed only where they would keep the step from fetching
(log entries 13 and 21). -/
def State.withFetchWord (s : State) (nbits w : Nat) : State :=
  let s := s.placeBytes s.ip (tableBytes nbits w)
  { s with
    memSize := if s.ip.toNat + Config.longestInstruction ≤ s.memSize then s.memSize else Config.addressSpace
    haltAddr := if s.haltAddr = s.ip then s.ip - 1#32 else s.haltAddr
    engine := if s.engine.phase = .idle then s.engine else Engine.idle }

end Sys2Proof.Machine
end

