-- ==== Sys2Proof/Machine/Commands.lean ====
section
/-! DEFINITION. The command interface between dispatcher and engine (spec/30_encoding.md R71 to R73), the handler forms'
shapes and opcode extensions (R72; spec/41_handler_protocol.md R145), the addressing decoder's contract and its reference
implementation `DEC_REF` (R130, R131; spec/30_encoding.md R76, R77), and the default opcode map `OPMAP` (R80, R81). -/

namespace Sys2Proof.Machine

/-! ### Commands (R71 to R73) -/

/-- The width that a command's width code names; 0, 3 and 5 to 7 name none (R71, R101). -/
def widthOfCode (k : Fin 8) : Option Width :=
  match k with
  | 1 => some .w1
  | 2 => some .w2
  | 4 => some .w4
  | _ => none

/-- A width's code (R71). -/
def widthCode : Width → Fin 8
  | .w1 => 1
  | .w2 => 2
  | .w4 => 4

/-- The two-operand operation that an operation code names (R73). -/
def aluOpOfCode (k : Fin 16) : Option AluOp :=
  match k with
  | 0 => some (.arith .add)
  | 1 => some (.arith .sub)
  | 2 => some (.arith .cmp)
  | 3 => some (.bitw .and)
  | 4 => some (.bitw .or)
  | 5 => some (.bitw .xor)
  | 6 => some (.bitw .test)
  | _ => none

/-- The operation code of a two-operand operation (R73). -/
def aluOpCode : AluOp → Fin 16
  | .arith .add => 0
  | .arith .sub => 1
  | .arith .cmp => 2
  | .bitw .and => 3
  | .bitw .or => 4
  | .bitw .xor => 5
  | .bitw .test => 6

/-- The unary operation that an operation code names (R73). -/
def unOpOfCode (k : Fin 16) : Option UnOp :=
  match k with
  | 7 => some .neg
  | 8 => some .not
  | _ => none

/-- The operation code of a unary operation (R73). -/
def unOpCode : UnOp → Fin 16
  | .neg => 7
  | .not => 8

/-- The handler form that `hsel` and a legal `op` name at the given widths (R72); `hsel` 0 to 5 and 11 ignore which of
the operations 0 to 8 it is (R71; log entry 22). -/
def formOfCommand (c : Command) (w iw : Width) : Option Handler :=
  match c.hsel with
  | 0 => some (.movRImm w c.reg3)
  | 1 => some (.movRmImm w)
  | 2 => some (.movRmR w)
  | 3 => some (.movRRm w)
  | 4 => some (.movAccMoffs w)
  | 5 => some (.movMoffsAcc w)
  | 6 => (aluOpOfCode c.op).map fun op => .aluAccImm op w iw
  | 7 => (aluOpOfCode c.op).map fun op => .aluRmImm op w iw
  | 8 => (aluOpOfCode c.op).map fun op => .aluRmR op w
  | 9 => (aluOpOfCode c.op).map fun op => .aluRRm op w
  | 10 => (unOpOfCode c.op).map fun op => .unaryRm op w
  | 11 => some (.jmpRel w)
  | _ => none

/-- S0: the handler that a legal command names, none for an illegal one (R71, R262). The ranges of `op`, `w` and `iw` hold
for every form, also for one that ignores the field. -/
def Command.check (c : Command) : Option Handler :=
  match widthOfCode c.w, widthOfCode c.iw with
  | some w, some iw => if iw.bytes ≤ w.bytes ∧ c.op.val ≤ 8 then formOfCommand c w iw else none
  | _, _ => none

/-- The command by which the dispatcher asks for a handler (R71, R72). A form without an immediate width gets `iw = w`. -/
def Handler.command : Handler → Command
  | .movRImm w r => ⟨0, 0, widthCode w, widthCode w, r⟩
  | .movRmImm w => ⟨1, 0, widthCode w, widthCode w, 0⟩
  | .movRmR w => ⟨2, 0, widthCode w, widthCode w, 0⟩
  | .movRRm w => ⟨3, 0, widthCode w, widthCode w, 0⟩
  | .movAccMoffs w => ⟨4, 0, widthCode w, widthCode w, 0⟩
  | .movMoffsAcc w => ⟨5, 0, widthCode w, widthCode w, 0⟩
  | .aluAccImm op w iw => ⟨6, aluOpCode op, widthCode w, widthCode iw, 0⟩
  | .aluRmImm op w iw => ⟨7, aluOpCode op, widthCode w, widthCode iw, 0⟩
  | .aluRmR op w => ⟨8, aluOpCode op, widthCode w, widthCode w, 0⟩
  | .aluRRm op w => ⟨9, aluOpCode op, widthCode w, widthCode w, 0⟩
  | .unaryRm op w => ⟨10, unOpCode op, widthCode w, widthCode w, 0⟩
  | .jmpRel w => ⟨11, 0, widthCode w, widthCode w, 0⟩

/-! ### The forms' shapes (R72, R145) -/

/-- The operand width of a handler's command. -/
def Handler.width : Handler → Width
  | .movRImm w _ => w
  | .movRmImm w => w
  | .movRmR w => w
  | .movRRm w => w
  | .movAccMoffs w => w
  | .movMoffsAcc w => w
  | .aluAccImm _ w _ => w
  | .aluRmImm _ w _ => w
  | .aluRmR _ w => w
  | .aluRRm _ w => w
  | .unaryRm _ w => w
  | .jmpRel w => w

/-- Whether the form has addressing bytes `A..` (R72). -/
def Handler.addressed : Handler → Bool
  | .movRImm _ _ => false
  | .movRmImm _ => true
  | .movRmR _ => true
  | .movRRm _ => true
  | .movAccMoffs _ => false
  | .movMoffsAcc _ => false
  | .aluAccImm _ _ _ => false
  | .aluRmImm _ _ _ => true
  | .aluRmR _ _ => true
  | .aluRRm _ _ => true
  | .unaryRm _ _ => true
  | .jmpRel _ => false

/-- How many bytes of immediate, address or displacement the form fetches in S4, if any (R72, R74). -/
def Handler.immBytes : Handler → Option Nat
  | .movRImm w _ => some w.bytes
  | .movRmImm w => some w.bytes
  | .movRmR _ => none
  | .movRRm _ => none
  | .movAccMoffs _ => some Config.addrWidth
  | .movMoffsAcc _ => some Config.addrWidth
  | .aluAccImm _ _ iw => some iw.bytes
  | .aluRmImm _ _ iw => some iw.bytes
  | .aluRmR _ _ => none
  | .aluRRm _ _ => none
  | .unaryRm _ _ => none
  | .jmpRel w => some w.bytes

/-- `EXT(ALU_RM_IMM, op)` (R145): TEST's value is the spec's decision D10 (log entry 16). -/
def aluExt : AluOp → Reg
  | .arith .add => 0
  | .bitw .or => 1
  | .bitw .and => 4
  | .arith .sub => 5
  | .bitw .xor => 6
  | .arith .cmp => 7
  | .bitw .test => 0

/-- `EXT(UNARY_RM, op)` (R145). -/
def unExt : UnOp → Reg
  | .not => 2
  | .neg => 3

/-- `EXT(hsel, op)`, for the three forms that check an extension (R144, R145). -/
def Handler.ext : Handler → Option Reg
  | .movRImm _ _ => none
  | .movRmImm _ => some 0
  | .movRmR _ => none
  | .movRRm _ => none
  | .movAccMoffs _ => none
  | .movMoffsAcc _ => none
  | .aluAccImm _ _ _ => none
  | .aluRmImm op _ _ => some (aluExt op)
  | .aluRmR _ _ => none
  | .aluRRm _ _ => none
  | .unaryRm op _ => some (unExt op)
  | .jmpRel _ => none

/-! ### The addressing decoder (R130, R131, R76, R77) -/

/-- `Decode(w1, w2)`: the two descriptors and how many bytes at `ip` were consumed, or the fault of a byte that cannot
be read. That a decoder changes nothing but `ip` (R131) holds by this type: the engine advances `ip` by the count. -/
abbrev AddrDecoder := Width → Width → State → Except Fault (RM × RField × Nat)

/-- The descriptors carry the two widths, and one or more bytes are consumed (R130). -/
def AddrDecoder.Described (dec : AddrDecoder) : Prop :=
  ∀ wRM wR s rm r n, dec wRM wR s = .ok (rm, r, n) → rm.width = wRM ∧ r.w = wR ∧ 1 ≤ n

/-- Asked again with the same memory, registers and `ip`, the decoder answers the same, faults included: it reads no flag
and nothing of the engine (R130, R131, R298). -/
def AddrDecoder.Repeatable (dec : AddrDecoder) : Prop :=
  ∀ wRM wR s t, s.regs = t.regs → s.mem = t.mem → s.memSize = t.memSize → s.ip = t.ip → dec wRM wR s = dec wRM wR t

/-- The states agree on the registers, `MEM_SIZE`, `ip` and the `n` bytes at `ip`, whatever else memory holds. -/
def SameAtIp (n : Nat) (s t : State) : Prop :=
  s.regs = t.regs ∧ s.memSize = t.memSize ∧ s.ip = t.ip ∧
    ∀ k, k < n → s.byteAt (s.ip + BitVec.ofNat 32 k).toNat = t.byteAt (s.ip + BitVec.ofNat 32 k).toNat

/-- Of memory the decoder reads nothing but the bytes at `ip` that it consumes: "idempotent given the same pointer and
bytes" (R130, R131). `MEM_SIZE` is at most `2^32` (R9). -/
def AddrDecoder.ReadsAtIp (dec : AddrDecoder) : Prop :=
  ∀ wRM wR s t rm r n, s.memSize ≤ Config.addressSpace → SameAtIp n s t →
    dec wRM wR s = .ok (rm, r, n) → dec wRM wR t = .ok (rm, r, n)

/-- The contract of R130 and R131. -/
def AddrDecoder.Contract (dec : AddrDecoder) : Prop := dec.Described ∧ dec.Repeatable ∧ dec.ReadsAtIp

/-- `DLEN(mod)` (R76). -/
def dlen (mod : Nat) : Nat :=
  match mod with
  | 0 => 0
  | 1 => 1
  | _ => 4

/-- `SIB(mod)` (R77) on the SIB byte: base value, scaled index, displacement length. -/
def sibFields (s : State) (mod sb : Nat) : Word × Word × Nat :=
  let ix := scaledIndex s (Fin.ofNat 4 (bits sb 7 6)) (Fin.ofNat 8 (bits sb 5 3))
  if bits sb 2 0 = 5 ∧ mod = 0 then (0#32, ix, 4)
  else (s.reg (Fin.ofNat 8 (bits sb 2 0)), ix, dlen mod)

/-- The displacement of the given length at `ip` (R76). -/
def fetchDisp (s : State) (len : Nat) : Except Fault Word :=
  match len with
  | 0 => .ok 0#32
  | 1 => do
    let (d, _) ← s.fetchImm 1
    .ok (BitVec.ofNat 32 (sext .w1 .w4 d))
  | _ => do
    let (d, _) ← s.fetchImm 4
    .ok (BitVec.ofNat 32 d)

/-- `DEC_REF` (R76, R77): the 32-bit ModRM/SIB layout (log entry 11). -/
def decRef : AddrDecoder := fun wRM wR s => do
  let (m, s1) ← s.fetchImm 1
  let mod := bits m 7 6
  let rm := bits m 2 0
  let r : RField := ⟨Fin.ofNat 8 (bits m 5 3), wR⟩
  if mod = 3 then .ok (.reg (Fin.ofNat 8 rm) wRM, r, 1)
  else if rm = 4 then do
    let (sb, s2) ← s1.fetchImm 1
    let (base, ix, len) := sibFields s mod sb
    let d ← fetchDisp s2 len
    .ok (.mem (base + ix + d) wRM, r, 2 + len)
  else if mod = 0 ∧ rm = 5 then do
    let d ← fetchDisp s1 4
    .ok (.mem d wRM, r, 5)
  else do
    let d ← fetchDisp s1 (dlen mod)
    .ok (.mem (s.reg (Fin.ofNat 8 rm) + d) wRM, r, 1 + dlen mod)

/-! ### The default opcode map (R80 to R82) -/

/-- The type of `OPMAP(b, v)`: an opcode byte and the v-size to an ordered list of candidate commands (R80). -/
abbrev OpMap := Nat → Width → List Command

/-- The six shapes of an operation's opcode bytes, in order (R81, the line of `00` to `05`). -/
def sixShapes (op : AluOp) (v : Width) (k : Nat) : List Handler :=
  match k with
  | 0 => [.aluRmR op .w1]
  | 1 => [.aluRmR op v]
  | 2 => [.aluRRm op .w1]
  | 3 => [.aluRRm op v]
  | 4 => [.aluAccImm op .w1 .w1]
  | 5 => [.aluAccImm op v v]
  | _ => []

/-- The operations of the operand-immediate group, by ascending extension (R82). -/
def immGroup : List AluOp :=
  [.arith .add, .bitw .or, .bitw .and, .arith .sub, .bitw .xor, .arith .cmp]

/-- The candidates of an opcode byte, in order (R81; log entry 10). The first eight arms are the lines of eight bytes
that R81 gives by their first byte. -/
def candidates (opcode : Nat) (v : Width) : List Handler :=
  match opcode / 8 with
  | 0x00 => sixShapes (.arith .add) v (opcode % 8)
  | 0x01 => sixShapes (.bitw .or) v (opcode % 8)
  | 0x04 => sixShapes (.bitw .and) v (opcode % 8)
  | 0x05 => sixShapes (.arith .sub) v (opcode % 8)
  | 0x06 => sixShapes (.bitw .xor) v (opcode % 8)
  | 0x07 => sixShapes (.arith .cmp) v (opcode % 8)
  | 0x16 => [.movRImm .w1 (Fin.ofNat 8 opcode)]
  | 0x17 => [.movRImm v (Fin.ofNat 8 opcode)]
  | _ =>
    match opcode with
    | 0x80 => immGroup.map fun op => .aluRmImm op .w1 .w1
    | 0x81 => immGroup.map fun op => .aluRmImm op v v
    | 0x83 => immGroup.map fun op => .aluRmImm op v .w1
    | 0x84 => [.aluRmR (.bitw .test) .w1]
    | 0x85 => [.aluRmR (.bitw .test) v]
    | 0x88 => [.movRmR .w1]
    | 0x89 => [.movRmR v]
    | 0x8A => [.movRRm .w1]
    | 0x8B => [.movRRm v]
    | 0xA0 => [.movAccMoffs .w1]
    | 0xA1 => [.movAccMoffs v]
    | 0xA2 => [.movMoffsAcc .w1]
    | 0xA3 => [.movMoffsAcc v]
    | 0xA8 => [.aluAccImm (.bitw .test) .w1 .w1]
    | 0xA9 => [.aluAccImm (.bitw .test) v v]
    | 0xC6 => [.movRmImm .w1]
    | 0xC7 => [.movRmImm v]
    | 0xE9 => [.jmpRel v]
    | 0xEB => [.jmpRel .w1]
    | 0xF6 => [.aluRmImm (.bitw .test) .w1 .w1, .unaryRm .not .w1, .unaryRm .neg .w1]
    | 0xF7 => [.aluRmImm (.bitw .test) v v, .unaryRm .not v, .unaryRm .neg v]
    | _ => []

/-- The default `OPMAP` (R81). -/
def opmapDefault : OpMap := fun opcode v => (candidates opcode v).map Handler.command

end Sys2Proof.Machine
end

