-- ==== Sys2Proof/Machine/Protocol.lean ====
section
/-! DEFINITION. The backtracking decode protocol: a handler invocation as one atomic function (spec/41_handler_protocol.md
R140 to R151), and the reference dispatcher that tries candidates until one commits (spec/30_encoding.md R84). -/

namespace Sys2Proof.Machine

/-- What a handler invocation answers: `MATCHED` or `NOT_MATCHED` with the state it leaves (R13, R148, R151), or a
terminal fault. -/
inductive Reply where
  | matched (s : State)
  | notMatched (s : State)
  | fault (f : Fault)
  deriving DecidableEq, Repr

/-- S2: the descriptors, and the state with `ip` past the addressing bytes; forms without addressing bytes skip it
(R140). Every handler calls `Decode` with `w1 = w2 = w` (R130). -/
def Handler.decodeStep (dec : AddrDecoder) (h : Handler) (s : State) : Except Fault (RM × RField × State) :=
  if h.addressed then do
    let (rm, r, n) ← dec h.width h.width s
    .ok (rm, r, s.advance n)
  else .ok (.reg 0 h.width, ⟨0, h.width⟩, s)

/-- S3: whether the form checks an extension and `R.val` is another (R140, R145). -/
def Handler.mismatch (h : Handler) (r : RField) : Bool :=
  match h.ext with
  | some e => r.val != e
  | none => false

/-- S4: the immediate, address or displacement, and the state with `ip` past it; forms without one skip it (R140). -/
def Handler.fetchStep (h : Handler) (s : State) : Except Fault (Nat × State) :=
  match h.immBytes with
  | some n => s.fetchImm n
  | none => .ok (0, s)

/-- S5 to S8 of each form. -/
def Handler.commit (h : Handler) (rm : RM) (r : Reg) (imm : Nat) (s : State) : Except Fault State :=
  match h with
  | .movRImm w reg3 => formMovRImm w reg3 imm s
  | .movRmImm _ => formMovRmImm rm imm s
  | .movRmR _ => formMovRmR rm r s
  | .movRRm _ => formMovRRm r rm s
  | .movAccMoffs w => formMovAccMoffs w (BitVec.ofNat 32 imm) s
  | .movMoffsAcc w => formMovMoffsAcc w (BitVec.ofNat 32 imm) s
  | .aluAccImm op w iw => formAluAccImm op w iw imm s
  | .aluRmImm op _ iw => formAluRmImm op iw rm imm s
  | .aluRmR op _ => formAluRmR op rm r s
  | .aluRRm op _ => formAluRRm op r rm s
  | .unaryRm op _ => formUnaryRm op rm s
  | .jmpRel w => formJmpRel w imm s

/-- The handler skeleton from S1 on (R140): commit whole, or restore `ip` and write nothing (R142, R143). -/
def Handler.run (dec : AddrDecoder) (h : Handler) (s : State) : Reply :=
  match h.decodeStep dec s with
  | .error f => .fault f
  | .ok (rm, r, s1) =>
    if h.mismatch r then .notMatched (s1.setIp s.ip)
    else
      match h.fetchStep s1 with
      | .error f => .fault f
      | .ok (imm, s2) =>
        match h.commit rm r.val imm s2 with
        | .error f => .fault f
        | .ok t => .matched t

/-- `Invoke(cmd)`: S0, then the handler that the command names (R84, R140, R262). -/
def invoke (dec : AddrDecoder) (c : Command) (s : State) : Reply :=
  match c.check with
  | none => .fault (.invariantViolation c)
  | some h => h.run dec s

/-- The dispatcher's loop over the candidates, on the identical bytes each time (R84, R134). -/
def tryCandidates (dec : AddrDecoder) (opaddr : Word) (opcode : Nat) :
    List Command → State → Host.Outcome State Fault Refusal
  | [], _ => .fault (.decodeError opaddr (BitVec.ofNat 8 opcode))
  | c :: cs, s =>
    match invoke dec c s with
    | .matched t => .next t
    | .notMatched t => tryCandidates dec opaddr opcode cs t
    | .fault f => .fault f

/-- The reference dispatcher's `Step` (R84) over any opcode map and any addressing decoder. At `HALT_ADDR` the run is
over and the state stays as it is (R296; log entry 6). -/
def dispatch (opmap : OpMap) (dec : AddrDecoder) (s : State) : Host.Outcome State Fault Refusal :=
  if s.ip = s.haltAddr then .next s
  else
    match s.fetchImm 1 with
    | .error f => .fault f
    | .ok (b, s1) =>
      if b = 0x66 then
        match s1.fetchImm 1 with
        | .error f => .fault f
        | .ok (b', s2) => tryCandidates dec s.ip b' (opmap b' .w2) s2
      else tryCandidates dec s.ip b (opmap b .w4) s1

end Sys2Proof.Machine
end

