-- ==== Sys2Proof/Machine/Sequencer.lean ====
section
/-! DEFINITION. The instruction-handler state machine, one state a tick (spec/41_handler_protocol.md R146), over the
engine's latches (spec/10_state.md R33). Intermediate states are unobservable (R148); an obligation says that running the
machine to its reply is the atomic handler of Machine/Protocol.lean. -/

namespace Sys2Proof.Machine

/-- The reply that the machine gives as it goes back to IDLE (R146). -/
inductive Signal where
  | matched
  | notMatched
  deriving DecidableEq, Repr

/-- The engine's latches replaced. -/
def State.setEngine (s : State) (e : Engine) : State := { s with engine := e }

/-- The machine in state FAULT with the fault recorded (R146, R266). -/
def State.enterFault (s : State) (f : Fault) : State := s.setEngine { s.engine with phase := .fault f }

/-- Take a command: only in IDLE (R135, R146). -/
def State.accept (s : State) (c : Command) : Option State :=
  if s.engine.phase = .idle then some (s.setEngine { Engine.idle with phase := .checkCmd, cmd := some c }) else none

/-- The state after the extension has been checked or skipped: S4 or S5 (R146). -/
def Handler.afterDecode (h : Handler) : Phase := if h.immBytes.isSome then .fetchImm else .readOps

/-- Whether the operation writes a destination, a register, memory or `ip` (R146 S6, R73). -/
def Handler.writesDestination : Handler → Bool
  | .aluAccImm op _ _ => op.writesBack
  | .aluRmImm op _ _ => op.writesBack
  | .aluRmR op _ => op.writesBack
  | .aluRRm op _ => op.writesBack
  | .movRImm _ _ => true
  | .movRmImm _ => true
  | .movRmR _ => true
  | .movRRm _ => true
  | .movAccMoffs _ => true
  | .movMoffsAcc _ => true
  | .unaryRm _ _ => true
  | .jmpRel _ => true

/-- Whether the operation writes flags (R29). -/
def Handler.writesFlags : Handler → Bool
  | .aluAccImm _ _ _ => true
  | .aluRmImm _ _ _ => true
  | .aluRmR _ _ => true
  | .aluRRm _ _ => true
  | .unaryRm .neg _ => true
  | .unaryRm .not _ => false
  | .movRImm _ _ => false
  | .movRmImm _ => false
  | .movRmR _ => false
  | .movRRm _ => false
  | .movAccMoffs _ => false
  | .movMoffsAcc _ => false
  | .jmpRel _ => false

/-- The state after the destination has been written or skipped: S8 or S9 (R146). -/
def Handler.afterWrite (h : Handler) : Phase := if h.writesFlags then .flags else .commit

/-- S5: the operand values `a` (the destination's) and `b` (the source's) from the latches (R140, R146). -/
def Handler.operands (h : Handler) (s : State) : Except Fault (Nat × Nat) :=
  let e := s.engine
  match h with
  | .movRImm _ _ => .ok (e.a, e.imm)
  | .movRmImm _ => .ok (e.a, e.imm)
  | .movRmR w => .ok (e.a, s.regRead e.r.val w)
  | .movRRm _ => do
    let b ← s.readRM e.rm
    .ok (e.a, b)
  | .movAccMoffs w => do
    let b ← s.memRead (BitVec.ofNat 32 e.imm) w.bytes
    .ok (e.a, b)
  | .movMoffsAcc w => .ok (e.a, s.regRead Config.acc w)
  | .aluAccImm _ w iw => .ok (s.regRead Config.acc w, sext iw w e.imm)
  | .aluRmImm _ w iw => do
    let a ← s.readRM e.rm
    .ok (a, sext iw w e.imm)
  | .aluRmR _ w => do
    let a ← s.readRM e.rm
    .ok (a, s.regRead e.r.val w)
  | .aluRRm _ w => do
    let b ← s.readRM e.rm
    .ok (s.regRead e.r.val w, b)
  | .unaryRm _ _ => do
    let a ← s.readRM e.rm
    .ok (a, e.b)
  | .jmpRel _ => .ok (e.a, e.imm)

/-- S6: the unmasked result `tmp` from the latched operands (R140, R146). -/
def Handler.compute (h : Handler) (s : State) : Nat :=
  let e := s.engine
  match h with
  | .movRImm _ _ => e.b
  | .movRmImm _ => e.b
  | .movRmR _ => e.b
  | .movRRm _ => e.b
  | .movAccMoffs _ => e.b
  | .movMoffsAcc _ => e.b
  | .aluAccImm op w _ => aluTmp op e.a e.b w
  | .aluRmImm op w _ => aluTmp op e.a e.b w
  | .aluRmR op w => aluTmp op e.a e.b w
  | .aluRRm op w => aluTmp op e.a e.b w
  | .unaryRm op w => unaryTmp op e.a w
  | .jmpRel w => (jumpTarget w s.ip e.b).toNat

/-- S6: the result that is written, `tmp` masked to the operand width; a move's value and a jump's target are as they
are (R106, R160, R251). -/
def Handler.mask (h : Handler) (tmp : Nat) : Nat :=
  match h with
  | .aluAccImm _ w _ => trunc w tmp
  | .aluRmImm _ w _ => trunc w tmp
  | .aluRmR _ w => trunc w tmp
  | .aluRRm _ w => trunc w tmp
  | .unaryRm _ w => trunc w tmp
  | .movRImm _ _ => tmp
  | .movRmImm _ => tmp
  | .movRmR _ => tmp
  | .movRRm _ => tmp
  | .movAccMoffs _ => tmp
  | .movMoffsAcc _ => tmp
  | .jmpRel _ => tmp

/-- S7: the one storage or `ip` write, of the latched result (R141, R146). -/
def Handler.writeback (h : Handler) (s : State) : Except Fault State :=
  let e := s.engine
  match h with
  | .movRImm w reg3 => .ok (s.regWrite reg3 w e.res)
  | .movRmImm _ => s.writeRM e.rm e.res
  | .movRmR _ => s.writeRM e.rm e.res
  | .movRRm w => .ok (s.regWrite e.r.val w e.res)
  | .movAccMoffs w => .ok (s.regWrite Config.acc w e.res)
  | .movMoffsAcc w => s.memWrite (BitVec.ofNat 32 e.imm) w.bytes e.res
  | .aluAccImm _ w _ => .ok (s.regWrite Config.acc w e.res)
  | .aluRmImm _ _ _ => s.writeRM e.rm e.res
  | .aluRmR _ _ => s.writeRM e.rm e.res
  | .aluRRm _ w => .ok (s.regWrite e.r.val w e.res)
  | .unaryRm _ _ => s.writeRM e.rm e.res
  | .jmpRel _ => .ok (s.setIp (BitVec.ofNat 32 e.res))

/-- S8: the flag writes, from the latched operand and unmasked result (R118, R146). -/
def Handler.newFlags (h : Handler) (s : State) : Flags :=
  let e := s.engine
  match h with
  | .aluAccImm op w _ => aluFlags op w e.tmp s.flags
  | .aluRmImm op w _ => aluFlags op w e.tmp s.flags
  | .aluRmR op w => aluFlags op w e.tmp s.flags
  | .aluRRm op w => aluFlags op w e.tmp s.flags
  | .unaryRm op _ => unaryFlags op e.a s.flags
  | .movRImm _ _ => s.flags
  | .movRmImm _ => s.flags
  | .movRmR _ => s.flags
  | .movRRm _ => s.flags
  | .movAccMoffs _ => s.flags
  | .movMoffsAcc _ => s.flags
  | .jmpRel _ => s.flags

/-- One tick in a state from S1 on, the handler being latched (R146). -/
def Handler.tick (dec : AddrDecoder) (h : Handler) (s : State) : State × Option Signal :=
  let e := s.engine
  match e.phase with
  | .idle => (s, none)
  | .checkCmd => (s, none)
  | .fault _ => (s, none)
  | .capture =>
    (s.setEngine { e with ip0 := s.ip, phase := if h.addressed then .decode else h.afterDecode }, none)
  | .decode =>
    match dec h.width h.width s with
    | .error f => (s.enterFault f, none)
    | .ok (rm, r, n) =>
      ((s.advance n).setEngine
        { e with rm := rm, r := r, phase := if h.ext.isSome then .checkExt else h.afterDecode }, none)
  | .checkExt =>
    (s.setEngine { e with phase := if h.ext = some e.r.val then h.afterDecode else .rollback }, none)
  | .rollback => ((s.setIp e.ip0).setEngine Engine.idle, some .notMatched)
  | .fetchImm =>
    match s.fetchImm (h.immBytes.getD 0) with
    | .error f => (s.enterFault f, none)
    | .ok (v, t) => (t.setEngine { e with imm := v, phase := .readOps }, none)
  | .readOps =>
    match h.operands s with
    | .error f => (s.enterFault f, none)
    | .ok (a, b) => (s.setEngine { e with a := a, b := b, phase := .execute }, none)
  | .execute =>
    (s.setEngine
      { e with
        tmp := h.compute s
        res := h.mask (h.compute s)
        phase := if h.writesDestination then .writeback else h.afterWrite }, none)
  | .writeback =>
    match h.writeback s with
    | .error f => (s.enterFault f, none)
    | .ok t => (t.setEngine { e with phase := h.afterWrite }, none)
  | .flags => ((s.setFlags (h.newFlags s)).setEngine { e with phase := .commit }, none)
  | .commit => (s.setEngine Engine.idle, some .matched)

/-- One tick of the state machine (R146). IDLE waits and FAULT stays (R266). In S0 the command is checked; from S1 on
the latched handler runs. The latches do not survive the return to IDLE (R33; log entry 7). -/
def tick (dec : AddrDecoder) (s : State) : State × Option Signal :=
  match s.engine.phase, s.engine.cmd, s.engine.handler with
  | .checkCmd, some c, _ =>
    match c.check with
    | none => (s.enterFault (.invariantViolation c), none)
    | some h => (s.setEngine { s.engine with handler := some h, phase := .capture }, none)
  | _, _, some h => h.tick dec s
  | _, _, none => (s, none)

/-- Tick until the machine replies or faults, at most the given number of ticks. -/
def drive (dec : AddrDecoder) : Nat → State → Option Reply
  | 0, _ => none
  | n + 1, s =>
    match tick dec s with
    | (t, some .matched) => some (.matched t)
    | (t, some .notMatched) => some (.notMatched t)
    | (t, none) =>
      match t.engine.phase with
      | .fault f => some (.fault f)
      | _ => drive dec n t

end Sys2Proof.Machine
end

