-- ==== Sys2Proof/Safety.lean ====
section
/-! DEFINITION. What claims are stated in: the invariant of the machine's states, runs and their end
(spec/70_reset_and_hazards.md R296; spec/60_exceptions.md R266), and what an instruction changes and leaves unchanged. -/

namespace Sys2Proof.Machine

/-! ### The invariant -/

/-- What holds of every state between steps: memory is in its canonical form and lists only addresses that exist,
`MEM_SIZE` is at most `2^32` (R56), and the engine is in IDLE with nothing latched (R33, R146). -/
abbrev State.Inv (s : State) : Prop :=
  s.mem.wf = true ∧ (∀ c ∈ s.mem, c.1 < s.memSize) ∧ s.memSize ≤ Config.addressSpace ∧ s.engine = Engine.idle

/-! ### Runs (R296) -/

/-- The run is over: `ip == HALT_ADDR` between steps (R296). -/
abbrev State.ended (s : State) : Prop := s.ip = s.haltAddr

/-- `k` steps from `s` raise no fault and reach `t`. -/
def RunsTo (k : Nat) (s t : State) : Prop := Host.Core.run core k s = .next t

/-- A successful run: it reaches, without a fault, a moment between two steps at which `ip` is `HALT_ADDR` (R296). -/
def SuccessfulRun (s t : State) : Prop := ∃ k, RunsTo k s t ∧ t.engine.phase = .idle ∧ t.ended

/-- A safe run: no number of steps from `s` raises a fault or is refused (R266). -/
def SafeFrom (s : State) : Prop := ∀ k, ∃ t, RunsTo k s t

/-! ### What a state keeps and what it changes -/

/-- Every register reads as before. -/
abbrev SameRegs (s t : State) : Prop := ∀ i, t.reg i = s.reg i

/-- Every byte of memory reads as before. -/
abbrev SameMemory (s t : State) : Prop := ∀ a, t.byteAt a = s.byteAt a

/-- The launch parameters and the engine's own state are as before: no instruction writes them. -/
abbrev SameLaunch (s t : State) : Prop :=
  t.memSize = s.memSize ∧ t.haltAddr = s.haltAddr ∧ t.engine = s.engine

/-- The `w`-byte view of register `i` holds `v`, its upper bytes are as before, and so is every other register (R23). -/
abbrev WroteReg (i : Reg) (w : Width) (v : Nat) (s t : State) : Prop :=
  t.regRead i w = v ∧ (t.reg i).toNat / w.mod = (s.reg i).toNat / w.mod ∧ ∀ j, j ≠ i → t.reg j = s.reg j

/-- The `n` bytes at `addr` read as `v`, and every byte outside them is as before (R52). -/
abbrev WroteMem (addr : Word) (n v : Nat) (s t : State) : Prop :=
  t.memRead addr n = .ok v ∧ ∀ a, a < addr.toNat ∨ addr.toNat + n ≤ a → t.byteAt a = s.byteAt a

/-- The operand that the descriptor names holds `v`, and every other register and byte of memory is as before: a register
destination stores no byte, a memory destination writes no register. -/
def WroteRM (rm : RM) (v : Nat) (s t : State) : Prop :=
  match rm with
  | .reg i w => WroteReg i w v s t ∧ SameMemory s t
  | .mem addr w => WroteMem addr w.bytes v s t ∧ SameRegs s t

/-- `exec` answers a next state in which the operand holds `v`, the flags are `f`, and nothing else has changed. -/
def Stores (i : Instr) (s : State) (rm : RM) (v : Nat) (f : Flags) : Prop :=
  ∃ t, exec i s = .next t ∧ WroteRM rm v s t ∧ t.flags = f ∧ t.ip = s.ip ∧ SameLaunch s t

/-- `exec` answers a next state in which the flags are `f` and nothing else has changed. -/
def OnlyFlags (i : Instr) (s : State) (f : Flags) : Prop :=
  ∃ t, exec i s = .next t ∧ SameRegs s t ∧ SameMemory s t ∧ t.flags = f ∧ t.ip = s.ip ∧ SameLaunch s t

/-- `exec` answers a next state in which `ip` is `target` and nothing else has changed. -/
def OnlyIp (i : Instr) (s : State) (target : Word) : Prop :=
  ∃ t, exec i s = .next t ∧ SameRegs s t ∧ SameMemory s t ∧ t.flags = s.flags ∧ t.ip = target ∧ SameLaunch s t

/-! ### Where an instruction's one operand access goes -/

/-- The operand that an instruction reads or writes through the addressing bytes or at a direct offset, none for a form
without one: the only access of S5 and S7 that `MemAdmit` can refuse (R55, R141). -/
def operandOf (i : Instr) (s : State) : Option RM :=
  match i with
  | .addRmR8 _ am _ => some (resolve am .w1 s)
  | .addRmRv v am _ => some (resolve am v.width s)
  | .addRRm8 _ _ am => some (resolve am .w1 s)
  | .addRRmv v _ am => some (resolve am v.width s)
  | .addAccImm8 _ _ => none
  | .addAccImmv _ => none
  | .addRmImm8 _ am _ => some (resolve am .w1 s)
  | .addRmImmv am imm => some (resolve am imm.size.width s)
  | .addRmSImm8 v am _ => some (resolve am v.width s)
  | .orRmR8 _ am _ => some (resolve am .w1 s)
  | .orRmRv v am _ => some (resolve am v.width s)
  | .orRRm8 _ _ am => some (resolve am .w1 s)
  | .orRRmv v _ am => some (resolve am v.width s)
  | .orAccImm8 _ _ => none
  | .orAccImmv _ => none
  | .orRmImm8 _ am _ => some (resolve am .w1 s)
  | .orRmImmv am imm => some (resolve am imm.size.width s)
  | .orRmSImm8 v am _ => some (resolve am v.width s)
  | .andRmR8 _ am _ => some (resolve am .w1 s)
  | .andRmRv v am _ => some (resolve am v.width s)
  | .andRRm8 _ _ am => some (resolve am .w1 s)
  | .andRRmv v _ am => some (resolve am v.width s)
  | .andAccImm8 _ _ => none
  | .andAccImmv _ => none
  | .andRmImm8 _ am _ => some (resolve am .w1 s)
  | .andRmImmv am imm => some (resolve am imm.size.width s)
  | .andRmSImm8 v am _ => some (resolve am v.width s)
  | .subRmR8 _ am _ => some (resolve am .w1 s)
  | .subRmRv v am _ => some (resolve am v.width s)
  | .subRRm8 _ _ am => some (resolve am .w1 s)
  | .subRRmv v _ am => some (resolve am v.width s)
  | .subAccImm8 _ _ => none
  | .subAccImmv _ => none
  | .subRmImm8 _ am _ => some (resolve am .w1 s)
  | .subRmImmv am imm => some (resolve am imm.size.width s)
  | .subRmSImm8 v am _ => some (resolve am v.width s)
  | .xorRmR8 _ am _ => some (resolve am .w1 s)
  | .xorRmRv v am _ => some (resolve am v.width s)
  | .xorRRm8 _ _ am => some (resolve am .w1 s)
  | .xorRRmv v _ am => some (resolve am v.width s)
  | .xorAccImm8 _ _ => none
  | .xorAccImmv _ => none
  | .xorRmImm8 _ am _ => some (resolve am .w1 s)
  | .xorRmImmv am imm => some (resolve am imm.size.width s)
  | .xorRmSImm8 v am _ => some (resolve am v.width s)
  | .cmpRmR8 _ am _ => some (resolve am .w1 s)
  | .cmpRmRv v am _ => some (resolve am v.width s)
  | .cmpRRm8 _ _ am => some (resolve am .w1 s)
  | .cmpRRmv v _ am => some (resolve am v.width s)
  | .cmpAccImm8 _ _ => none
  | .cmpAccImmv _ => none
  | .cmpRmImm8 _ am _ => some (resolve am .w1 s)
  | .cmpRmImmv am imm => some (resolve am imm.size.width s)
  | .cmpRmSImm8 v am _ => some (resolve am v.width s)
  | .testRmR8 _ am _ => some (resolve am .w1 s)
  | .testRmRv v am _ => some (resolve am v.width s)
  | .testAccImm8 _ _ => none
  | .testAccImmv _ => none
  | .testRmImm8 _ am _ => some (resolve am .w1 s)
  | .testRmImmv am imm => some (resolve am imm.size.width s)
  | .notRm8 _ am => some (resolve am .w1 s)
  | .notRmv v am => some (resolve am v.width s)
  | .negRm8 _ am => some (resolve am .w1 s)
  | .negRmv v am => some (resolve am v.width s)
  | .movRmR8 _ am _ => some (resolve am .w1 s)
  | .movRmRv v am _ => some (resolve am v.width s)
  | .movRRm8 _ _ am => some (resolve am .w1 s)
  | .movRRmv v _ am => some (resolve am v.width s)
  | .movAccMoffs8 _ addr => some (.mem addr .w1)
  | .movAccMoffsv v addr => some (.mem addr v.width)
  | .movMoffsAcc8 _ addr => some (.mem addr .w1)
  | .movMoffsAccv v addr => some (.mem addr v.width)
  | .movRImm8 _ _ _ => none
  | .movRImmv _ _ => none
  | .movRmImm8 _ am _ => some (resolve am .w1 s)
  | .movRmImmv am imm => some (resolve am imm.size.width s)
  | .jmpRelv _ => none
  | .jmpRel8 _ _ => none

/-- The kind of the access at which the operand is first met (R264): the MOV forms that only store to it write it in S7,
and every other form reads it in S5, before any write (R141, R267). -/
def operandAccess (i : Instr) : AccessKind :=
  match i with
  | .addRmR8 _ _ _ => .read
  | .addRmRv _ _ _ => .read
  | .addRRm8 _ _ _ => .read
  | .addRRmv _ _ _ => .read
  | .addAccImm8 _ _ => .read
  | .addAccImmv _ => .read
  | .addRmImm8 _ _ _ => .read
  | .addRmImmv _ _ => .read
  | .addRmSImm8 _ _ _ => .read
  | .orRmR8 _ _ _ => .read
  | .orRmRv _ _ _ => .read
  | .orRRm8 _ _ _ => .read
  | .orRRmv _ _ _ => .read
  | .orAccImm8 _ _ => .read
  | .orAccImmv _ => .read
  | .orRmImm8 _ _ _ => .read
  | .orRmImmv _ _ => .read
  | .orRmSImm8 _ _ _ => .read
  | .andRmR8 _ _ _ => .read
  | .andRmRv _ _ _ => .read
  | .andRRm8 _ _ _ => .read
  | .andRRmv _ _ _ => .read
  | .andAccImm8 _ _ => .read
  | .andAccImmv _ => .read
  | .andRmImm8 _ _ _ => .read
  | .andRmImmv _ _ => .read
  | .andRmSImm8 _ _ _ => .read
  | .subRmR8 _ _ _ => .read
  | .subRmRv _ _ _ => .read
  | .subRRm8 _ _ _ => .read
  | .subRRmv _ _ _ => .read
  | .subAccImm8 _ _ => .read
  | .subAccImmv _ => .read
  | .subRmImm8 _ _ _ => .read
  | .subRmImmv _ _ => .read
  | .subRmSImm8 _ _ _ => .read
  | .xorRmR8 _ _ _ => .read
  | .xorRmRv _ _ _ => .read
  | .xorRRm8 _ _ _ => .read
  | .xorRRmv _ _ _ => .read
  | .xorAccImm8 _ _ => .read
  | .xorAccImmv _ => .read
  | .xorRmImm8 _ _ _ => .read
  | .xorRmImmv _ _ => .read
  | .xorRmSImm8 _ _ _ => .read
  | .cmpRmR8 _ _ _ => .read
  | .cmpRmRv _ _ _ => .read
  | .cmpRRm8 _ _ _ => .read
  | .cmpRRmv _ _ _ => .read
  | .cmpAccImm8 _ _ => .read
  | .cmpAccImmv _ => .read
  | .cmpRmImm8 _ _ _ => .read
  | .cmpRmImmv _ _ => .read
  | .cmpRmSImm8 _ _ _ => .read
  | .testRmR8 _ _ _ => .read
  | .testRmRv _ _ _ => .read
  | .testAccImm8 _ _ => .read
  | .testAccImmv _ => .read
  | .testRmImm8 _ _ _ => .read
  | .testRmImmv _ _ => .read
  | .notRm8 _ _ => .read
  | .notRmv _ _ => .read
  | .negRm8 _ _ => .read
  | .negRmv _ _ => .read
  | .movRmR8 _ _ _ => .write
  | .movRmRv _ _ _ => .write
  | .movRRm8 _ _ _ => .read
  | .movRRmv _ _ _ => .read
  | .movAccMoffs8 _ _ => .read
  | .movAccMoffsv _ _ => .read
  | .movMoffsAcc8 _ _ => .write
  | .movMoffsAccv _ _ => .write
  | .movRImm8 _ _ _ => .read
  | .movRImmv _ _ => .read
  | .movRmImm8 _ _ _ => .write
  | .movRmImmv _ _ => .write
  | .jmpRelv _ => .read
  | .jmpRel8 _ _ => .read

/-- Whether every operand access of the instruction is admitted. -/
def operandAdmitted (i : Instr) (s : State) : Bool :=
  match operandOf i s with
  | some rm => s.admits rm
  | none => true

/-! ### Families, for rules over all instructions -/

/-- The instruction families that differ in what they write (R29). -/
inductive Family where
  | mov
  | arith
  | bitw
  | not
  | neg
  | jmp
  deriving DecidableEq, Repr

/-- The family of an instruction (R29's table). -/
def familyOf (i : Instr) : Family :=
  match i with
  | .addRmR8 _ _ _ => .arith
  | .addRmRv _ _ _ => .arith
  | .addRRm8 _ _ _ => .arith
  | .addRRmv _ _ _ => .arith
  | .addAccImm8 _ _ => .arith
  | .addAccImmv _ => .arith
  | .addRmImm8 _ _ _ => .arith
  | .addRmImmv _ _ => .arith
  | .addRmSImm8 _ _ _ => .arith
  | .orRmR8 _ _ _ => .bitw
  | .orRmRv _ _ _ => .bitw
  | .orRRm8 _ _ _ => .bitw
  | .orRRmv _ _ _ => .bitw
  | .orAccImm8 _ _ => .bitw
  | .orAccImmv _ => .bitw
  | .orRmImm8 _ _ _ => .bitw
  | .orRmImmv _ _ => .bitw
  | .orRmSImm8 _ _ _ => .bitw
  | .andRmR8 _ _ _ => .bitw
  | .andRmRv _ _ _ => .bitw
  | .andRRm8 _ _ _ => .bitw
  | .andRRmv _ _ _ => .bitw
  | .andAccImm8 _ _ => .bitw
  | .andAccImmv _ => .bitw
  | .andRmImm8 _ _ _ => .bitw
  | .andRmImmv _ _ => .bitw
  | .andRmSImm8 _ _ _ => .bitw
  | .subRmR8 _ _ _ => .arith
  | .subRmRv _ _ _ => .arith
  | .subRRm8 _ _ _ => .arith
  | .subRRmv _ _ _ => .arith
  | .subAccImm8 _ _ => .arith
  | .subAccImmv _ => .arith
  | .subRmImm8 _ _ _ => .arith
  | .subRmImmv _ _ => .arith
  | .subRmSImm8 _ _ _ => .arith
  | .xorRmR8 _ _ _ => .bitw
  | .xorRmRv _ _ _ => .bitw
  | .xorRRm8 _ _ _ => .bitw
  | .xorRRmv _ _ _ => .bitw
  | .xorAccImm8 _ _ => .bitw
  | .xorAccImmv _ => .bitw
  | .xorRmImm8 _ _ _ => .bitw
  | .xorRmImmv _ _ => .bitw
  | .xorRmSImm8 _ _ _ => .bitw
  | .cmpRmR8 _ _ _ => .arith
  | .cmpRmRv _ _ _ => .arith
  | .cmpRRm8 _ _ _ => .arith
  | .cmpRRmv _ _ _ => .arith
  | .cmpAccImm8 _ _ => .arith
  | .cmpAccImmv _ => .arith
  | .cmpRmImm8 _ _ _ => .arith
  | .cmpRmImmv _ _ => .arith
  | .cmpRmSImm8 _ _ _ => .arith
  | .testRmR8 _ _ _ => .bitw
  | .testRmRv _ _ _ => .bitw
  | .testAccImm8 _ _ => .bitw
  | .testAccImmv _ => .bitw
  | .testRmImm8 _ _ _ => .bitw
  | .testRmImmv _ _ => .bitw
  | .notRm8 _ _ => .not
  | .notRmv _ _ => .not
  | .negRm8 _ _ => .neg
  | .negRmv _ _ => .neg
  | .movRmR8 _ _ _ => .mov
  | .movRmRv _ _ _ => .mov
  | .movRRm8 _ _ _ => .mov
  | .movRRmv _ _ _ => .mov
  | .movAccMoffs8 _ _ => .mov
  | .movAccMoffsv _ _ => .mov
  | .movMoffsAcc8 _ _ => .mov
  | .movMoffsAccv _ _ => .mov
  | .movRImm8 _ _ _ => .mov
  | .movRImmv _ _ => .mov
  | .movRmImm8 _ _ _ => .mov
  | .movRmImmv _ _ => .mov
  | .jmpRelv _ => .jmp
  | .jmpRel8 _ _ => .jmp

end Sys2Proof.Machine
end

