-- ==== Sys2Proof/Certificates/Slice0/Obligations.lean ====
section
/-! DEFINITION. The statements for the provers, each a rule of the spec about what an instruction or the machine does. -/

open Sys2Proof Sys2Proof.Machine

namespace Sys2Proof.Claims

/-! ### The closed forms that the statements compare the machine with -/

/-- The weight of the sign bit of a `w`-byte pattern (R100). -/
def half (w : Width) : Nat := 2 ^ (8 * w.bytes - 1)

/-- The flags of ADD in closed form (R112): SF the sign bit of the result, ZF whether it is zero, OF the unsigned carry;
CF kept. -/
def addFlags (w : Width) (a b : Nat) (f : Flags) : Flags :=
  ⟨decide (half w ≤ (a + b) % w.mod), decide ((a + b) % w.mod = 0), decide (w.mod ≤ a + b), f.cf⟩

/-- `(a - b) mod MOD(w)` over the integers (R112). -/
def difference (w : Width) (a b : Nat) : Nat := (((a : Int) - (b : Int)) % (w.mod : Int)).toNat

/-- The flags of SUB and CMP in closed form (R112): OF is "no unsigned borrow"; CF kept. -/
def subFlags (w : Width) (a b : Nat) (f : Flags) : Flags :=
  ⟨decide (half w ≤ difference w a b), decide (a = b), decide (b ≤ a), f.cf⟩

/-- The flags of AND, OR, XOR and TEST with result `r` (R114): OF and CF cleared. -/
def bitFlags (w : Width) (r : Nat) : Flags := ⟨decide (half w ≤ r), decide (r = 0), false, false⟩

/-- A 1-byte immediate sign-extended to `w` bytes, as the pattern's number (R105). -/
def extended (w : Width) (imm : BitVec 8) : Nat := (imm.signExtend (8 * w.bytes)).toNat

/-- The signed displacement of a v-size jump as a 32-bit addend (R250, R251). -/
def displacement (d : VImm) : Word :=
  match d with
  | .word d => d.signExtend 32
  | .dword d => d

/-- The scaled index of a SIB byte: `x[index] << scale` modulo `2^32`, nothing for index 4 (R77). -/
def indexValue (s : State) (scale : Fin 4) (index : Reg) : Word :=
  if index = 4 then 0#32 else s.reg index <<< scale.val

/-- The legal commands, in numbers (R71, R72, R262). -/
def LegalCommand (c : Command) : Prop :=
  c.hsel.val ≤ 11 ∧ c.w.val ∈ [1, 2, 4] ∧ c.iw.val ∈ [1, 2, 4] ∧ c.iw.val ≤ c.w.val ∧
  c.op.val ≤ 8 ∧ (6 ≤ c.hsel.val → c.hsel.val ≤ 9 → c.op.val ≤ 6) ∧ (c.hsel.val = 10 → c.op.val = 7 ∨ c.op.val = 8)

/-- The reserved extension values of the shared opcode bytes (R87). -/
def Reserved (opcode : Nat) (ext : Reg) : Prop :=
  (opcode ∈ [0x80, 0x81, 0x83] ∧ ext.val ∈ [2, 3]) ∨ (opcode ∈ [0xC6, 0xC7] ∧ ext.val ≠ 0) ∨
  (opcode ∈ [0xF6, 0xF7] ∧ ext.val ∈ [1, 4, 5, 6, 7])

/-- The step fetches an instruction: the engine is in IDLE and the run is not over (R84, R135). -/
def Running (s : State) : Prop := s.engine.phase = .idle ∧ ¬ s.ended

end Sys2Proof.Claims

open Sys2Proof.Claims

/-- Decode of encode is the identity on every row, with every operand at every value (R72, R74, R76 to R78, R81, R84). -/
def Obligations.DecodeEncodeRoundTrip : Prop :=
  ∀ (i : Instr) (rest : List Byte), i.wf = true →
    decode (encode i ++ rest) = .ok (i, (encode i).length)

/-- Encode of decode gives the consumed bytes back, so that every encoding has one meaning (R81, R87, R89). -/
def Obligations.EncodeDecodeRoundTrip : Prop :=
  ∀ (bs : List Byte) (i : Instr) (n : Nat), decode bs = .ok (i, n) →
    i.wf = true ∧ n ≤ bs.length ∧ encode i = bs.take n

/-- A few words of R161, R162, R183, R187, R213, R225, R241, R242, R250 and two reserved ones. -/
def Obligations.SampleWordsDecode : Prop :=
  decode [0xB3#8, 0x7F#8] = .ok (.movRImm8 false 3 0x7F#8, 2) ∧
  decode [0xC7#8, 0x03#8, 0x78#8, 0x56#8, 0x34#8, 0x12#8] = .ok (.movRmImmv (.base 3 .none) (.dword 0x12345678#32), 6) ∧
  decode [0x83#8, 0xC0#8, 0xFE#8] = .ok (.addRmSImm8 .v4 (.reg 0) 0xFE#8, 3) ∧
  decode [0x80#8, 0x2B#8, 0x79#8] = .ok (.subRmImm8 false (.base 3 .none) 0x79#8, 3) ∧
  decode [0x80#8, 0xE1#8, 0x0F#8] = .ok (.andRmImm8 false (.reg 1) 0x0F#8, 3) ∧
  decode [0xF6#8, 0xC1#8, 0xFF#8] = .ok (.testRmImm8 false (.reg 1) 0xFF#8, 3) ∧
  decode [0xF6#8, 0xD0#8] = .ok (.notRm8 false (.reg 0), 2) ∧
  decode [0x66#8, 0xF7#8, 0xD8#8] = .ok (.negRmv .v2 (.reg 0), 3) ∧
  decode [0xEB#8, 0x05#8] = .ok (.jmpRel8 false 0x05#8, 2) ∧
  decode [0x80#8, 0xD0#8, 0x01#8] = .error (.reservedExtension 0x80 2) ∧
  decode [0x90#8] = .error (.noCandidate 0x90)

/-- The step around `exec`: `ip` moves past the instruction, then the instruction runs (R84, R140; log entry 18). -/
def Obligations.StepRunsDecodedInstr : Prop :=
  ∀ (s : State) (i : Instr) (n : Nat), Running s → decodeFrom s.fetchSource = .ok (i, n) →
    i.wf = true ∧ step s = exec i (s.advance n)

/-- Fetch reads the one memory at the moment of consumption (R60), byte for byte as `encode` writes it. -/
def Obligations.StepRunsStoredInstr : Prop :=
  ∀ (i : Instr) (s : State), i.wf = true → Running s → s.memSize ≤ Config.addressSpace →
    s.ip.toNat + (encode i).length ≤ s.memSize →
    (∀ (k : Nat) (hk : k < (encode i).length), s.byteAt (s.ip.toNat + k) = (encode i)[k]) →
    step s = exec i (s.advance (encode i).length)

/-- The decoder-based step refines the dispatcher of R84, faults included. -/
def Obligations.StepIsDispatch : Prop :=
  ∀ s : State, s.engine.phase = .idle → step s = dispatch opmapDefault decRef s

/-- "It ends, successfully, at the first moment between two steps at which `ip == HALT_ADDR`" (R296). Staying in the state is the model's choice: log entry 6. -/
def Obligations.HaltAddrEndsRun : Prop :=
  ∀ (s : State) (k : Nat), s.engine.phase = .idle → s.ended → step s = .next s ∧ RunsTo k s s

/-- Every fault is terminal (R266). -/
def Obligations.FaultIsTerminal : Prop :=
  (∀ (s : State) (f : Fault), step s = .fault f → ∀ k : Nat, Host.Core.run core (k + 1) s = .fault f) ∧
  (∀ (s : State) (f : Fault), s.engine.phase = .fault f →
    step s = .fault f ∧ (∀ c : Command, s.accept c = none) ∧ ∀ dec : AddrDecoder, tick dec s = (s, none)) ∧
  (∀ (s t : State) (f : Fault), step s = .fault f → ¬ SuccessfulRun s t)

/-- Reset leaves the handler state machine in IDLE with no command (R34, R290). The other values of reset are DESIGN CHOICE (log entries 1 to 7) and are not stated. -/
def Obligations.ResetSatisfiesInv : Prop :=
  State.reset.Inv ∧ State.reset.engine.phase = .idle ∧ State.reset.engine.cmd = none ∧
    State.reset.engine.handler = none

/-- Nothing the engine holds survives a return to the dispatcher (R33), no unadmitted byte is ever written (R52), and the launch parameters stay (R301). -/
def Obligations.StepKeepsInv : Prop :=
  ∀ s t : State, s.Inv → step s = .next t → t.Inv ∧ t.memSize = s.memSize ∧ t.haltAddr = s.haltAddr

/-- Sub-views of a register (R22). -/
def Obligations.RegReadIsLowBytes : Prop :=
  ∀ (s : State) (i : Reg),
    s.regRead i .w4 = (s.reg i).toNat ∧
    s.regRead i .w2 = ((s.reg i).extractLsb' 0 16).toNat ∧
    s.regRead i .w1 = ((s.reg i).extractLsb' 0 8).toNat ∧
    ∀ w : Width, s.regRead i w ≤ w.max ∧ leBytes w.bytes (s.regRead i w) = leBytes w.bytes (s.reg i).toNat

/-- Register write (R23). -/
def Obligations.RegWriteKeepsUpperBytes : Prop :=
  ∀ (s : State) (i : Reg) (w : Width) (v : Nat), v ≤ w.max →
    (s.regWrite i w v).reg i =
      (match w with
       | .w1 => (s.reg i).extractLsb' 8 24 ++ BitVec.ofNat 8 v
       | .w2 => (s.reg i).extractLsb' 16 16 ++ BitVec.ofNat 16 v
       | .w4 => BitVec.ofNat 32 v) ∧
    (∀ j, j ≠ i → (s.regWrite i w v).reg j = s.reg j) ∧
    SameMemory s (s.regWrite i w v) ∧ (s.regWrite i w v).flags = s.flags ∧ (s.regWrite i w v).ip = s.ip ∧
    SameLaunch s (s.regWrite i w v)

/-- Memory read (R51). -/
def Obligations.MemReadIsLittleEndian : Prop :=
  ∀ (s : State) (addr : Word) (n : Nat), n ∈ [1, 2, 4] →
    (s.memAdmit addr n = true →
      s.memRead addr n = .ok (∑ k ∈ Finset.range n, (s.byteAt (addr.toNat + k)).toNat * 2 ^ (8 * k))) ∧
    (s.memAdmit addr n = false → s.memRead addr n = .error (.memoryFault addr n .read))

/-- Memory write (R52). -/
def Obligations.MemWriteStoresBytes : Prop :=
  ∀ (s : State) (addr : Word) (n v : Nat), n ∈ [1, 2, 4] → v < 2 ^ (8 * n) → s.mem.wf = true →
    (s.memAdmit addr n = true → ∃ t, s.memWrite addr n v = .ok t ∧
      (∀ k, k < n → t.byteAt (addr.toNat + k) = BitVec.ofNat 8 (bits v (8 * k + 7) (8 * k))) ∧
      (∀ a, a < addr.toNat ∨ addr.toNat + n ≤ a → t.byteAt a = s.byteAt a) ∧
      SameRegs s t ∧ t.flags = s.flags ∧ t.ip = s.ip ∧ SameLaunch s t) ∧
    (s.memAdmit addr n = false → s.memWrite addr n v = .error (.memoryFault addr n .write))

/-- Little-endian memory (R53). -/
def Obligations.NarrowReadAfterWideWrite : Prop :=
  ∀ (s t : State) (addr : Word) (v : Nat), s.Inv → v < 2 ^ 32 → s.memWrite addr 4 v = .ok t →
    t.memRead addr 4 = .ok v ∧
    t.memRead addr 1 = .ok (bits v 7 0) ∧ t.memRead addr 2 = .ok (bits v 15 0) ∧
    t.memRead (addr + 1#32) 2 = .ok (bits v 23 8) ∧ t.memRead (addr + 3#32) 1 = .ok (bits v 31 24)

/-- Sign extension (R105); `hsel` 6 and 7 are the forms that read `iw` (R71). -/
def Obligations.SignExtensionOfImmediate : Prop :=
  (∀ (iw w : Width) (v : Nat), iw.bytes ≤ w.bytes → v ≤ iw.max →
    sext iw w v = (if half iw ≤ v then v + (w.mod - iw.mod) else v) ∧
    sext iw w v ≤ w.max ∧ signed w (sext iw w v) = signed iw v ∧ (iw = w → sext iw w v = v)) ∧
  sext .w1 .w4 0x7F = 0x7F ∧ sext .w1 .w4 0x80 = 0xFFFFFF80 ∧ sext .w1 .w2 0xFE = 0xFFFE ∧
  sext .w2 .w4 0x8000 = 0xFFFF8000 ∧
  (∀ (dec : AddrDecoder) (c : Command) (s : State), c.hsel.val = 6 ∨ c.hsel.val = 7 → c.w.val < c.iw.val →
    invoke dec c s = .fault (.invariantViolation c))

/-- Ranges and closed forms of the arithmetic function (R111, R112). -/
def Obligations.ArithClosedForms : Prop :=
  ∀ (w : Width) (a b : Nat) (f : Flags), a ≤ w.max → b ≤ w.max →
    (arithTmp .add a b w ≤ 2 * w.max ∧ trunc w (arithTmp .add a b w) = (a + b) % w.mod ∧
      arithFlags w (arithTmp .add a b w) f = addFlags w a b f ∧
      ((arithFlags w (arithTmp .add a b w) f).zf = true ↔ a + b = 0 ∨ a + b = w.mod)) ∧
    (∀ op, op = .sub ∨ op = .cmp →
      1 ≤ addend op b w ∧ addend op b w ≤ w.mod ∧ (addend op b w = w.mod ↔ b = 0) ∧
      1 ≤ arithTmp op a b w ∧ arithTmp op a b w ≤ 2 ^ (8 * w.bytes + 1) - 1 ∧
      trunc w (arithTmp op a b w) = difference w a b ∧
      arithFlags w (arithTmp op a b w) f = subFlags w a b f ∧
      (b = 0 → (arithFlags w (arithTmp op a b w) f).of = true) ∧
      (a = b → (arithFlags w (arithTmp op a b w) f).of = true)) ∧
    (∀ op, arithTmp op a b w < 2 ^ (8 * w.bytes + 1) ∧
      (arithFlags w (arithTmp op a b w) f).of = (bits (arithTmp op a b w) (8 * w.bytes) (8 * w.bytes) == 1) ∧
      (arithFlags w (arithTmp op a b w) f).sf = signbit w (trunc w (arithTmp op a b w)) ∧
      (arithFlags w (arithTmp op a b w) f).zf = decide (trunc w (arithTmp op a b w) = 0))

/-- The bitwise function (R114). -/
def Obligations.BitwiseFunction : Prop :=
  ∀ (w : Width) (a b : Nat) (f : Flags), a ≤ w.max → b ≤ w.max →
    (∀ op r, (op, r) ∈ [(BitOp.and, a &&& b), (.test, a &&& b), (.or, a ||| b), (.xor, a ^^^ b)] →
      bitwTmp op a b = r ∧ r ≤ w.max ∧ trunc w (bitwTmp op a b) = r ∧ bitwFlags w (bitwTmp op a b) f = bitFlags w r)

/-- The unary functions and the laws of R117 (e). -/
def Obligations.NotAndNegFunctions : Prop :=
  ∀ (w : Width) (a b : Nat) (f : Flags), a ≤ w.max → b ≤ w.max →
    trunc w (unaryTmp .not a w) = a ^^^ w.max ∧
    trunc w (unaryTmp .neg a w) = (w.mod - a) % w.mod ∧
    trunc w (unaryTmp .neg 0 w) = 0 ∧ trunc w (unaryTmp .neg (half w) w) = half w ∧
    unaryFlags .not a f = f ∧ unaryFlags .neg a f = ⟨f.sf, f.zf, f.of, decide (a = 0)⟩ ∧
    trunc w (unaryTmp .not (trunc w (unaryTmp .not a w)) w) = a ∧
    trunc w (unaryTmp .neg (trunc w (unaryTmp .neg a w)) w) = a ∧
    trunc w (arithTmp .sub a b w) = trunc w (arithTmp .add a (trunc w (unaryTmp .neg b w)) w)

/-- The rollback invariant (R143) and repeatability (R150), for every addressing decoder. -/
def Obligations.RollbackInvariant : Prop :=
  ∀ (dec : AddrDecoder) (c : Command) (s t : State), invoke dec c s = .notMatched t →
    t = s ∧ invoke dec c t = .notMatched t ∧ ∀ d : Command, invoke dec d t = invoke dec d s

/-- Which handler forms can abort (R144). -/
def Obligations.OnlyThreeFormsAbort : Prop :=
  ∀ (dec : AddrDecoder) (c : Command) (s t : State), invoke dec c s = .notMatched t →
    c.hsel.val = 1 ∨ c.hsel.val = 7 ∨ c.hsel.val = 10

/-- The expected extensions (R145) and what a mismatch does. -/
def Obligations.AbortIffExtensionDiffers : Prop :=
  (∀ w : Width, (Handler.movRmImm w).ext = some 0) ∧
  (∀ w iw : Width, ∀ op e, (op, e) ∈ [(AluOp.arith .add, (0 : Reg)), (.bitw .or, 1), (.bitw .and, 4), (.arith .sub, 5),
      (.bitw .xor, 6), (.arith .cmp, 7), (.bitw .test, 0)] → (Handler.aluRmImm op w iw).ext = some e) ∧
  (∀ w : Width, (Handler.unaryRm .not w).ext = some 2 ∧ (Handler.unaryRm .neg w).ext = some 3) ∧
  (∀ (dec : AddrDecoder) (h : Handler) (s : State) (rm : RM) (r : RField) (n : Nat), h.addressed = true →
    dec h.width h.width s = .ok (rm, r, n) →
    (h.run dec s = .notMatched s ↔ ∃ e, h.ext = some e ∧ r.val ≠ e))

/-- The pointer advance of a commit (R142, R26). -/
def Obligations.CommitAdvancesPointer : Prop :=
  ∀ (dec : AddrDecoder) (h : Handler) (s t : State), h.run dec s = .matched t →
    ((∀ w, h ≠ .jmpRel w) →
      (h.addressed = false → t.ip = s.ip + BitVec.ofNat 32 (h.immBytes.getD 0)) ∧
      (h.addressed = true → ∃ rm r n, dec h.width h.width s = .ok (rm, r, n) ∧
        t.ip = s.ip + BitVec.ofNat 32 (n + h.immBytes.getD 0))) ∧
    (∀ w, h = .jmpRel w → ∃ d, s.memRead s.ip w.bytes = .ok d ∧
      t.ip = s.ip + BitVec.ofNat 32 w.bytes + BitVec.ofInt 32 (signed w d))

/-- The invariant violation (R262, R71). That a form which ignores `op` accepts each of the operations 0 to 8 is the reading of log entry 22. -/
def Obligations.IllegalCommandIsInvariantViolation : Prop :=
  (∀ (dec : AddrDecoder) (c : Command) (s : State), ¬ LegalCommand c → invoke dec c s = .fault (.invariantViolation c)) ∧
  (∀ (c d : Command) (s : State), LegalCommand c → invoke decRef c s ≠ .fault (.invariantViolation d)) ∧
  (∀ (opcode : Nat) (v : Width), ∀ c ∈ opmapDefault opcode v, LegalCommand c)

/-- Candidate order (R85), for every addressing decoder. -/
def Obligations.CandidateOrderIrrelevant : Prop :=
  ∀ (dec : AddrDecoder) (opcode : Nat) (v : Width) (s : State),
    (∀ c ∈ opmapDefault opcode v, ∀ d ∈ opmapDefault opcode v, ∀ t u : State,
      invoke dec c s = .matched t → invoke dec d s = .matched u → c = d) ∧
    (∀ (cs : List Command) (opaddr : Word), cs.Perm (opmapDefault opcode v) →
      tryCandidates dec opaddr opcode cs s = tryCandidates dec opaddr opcode (opmapDefault opcode v) s)

/-- The states of R146 refine the atomic function of R148; every path ends in IDLE with a reply or in FAULT (R147). -/
def Obligations.SequencerRefinesHandler : Prop :=
  ∀ (dec : AddrDecoder), dec.Described → dec.Repeatable → ∀ (c : Command) (s : State), s.engine = Engine.idle →
    ∃ t, s.accept c = some t ∧ drive dec 10 t = some (invoke dec c s)

/-- The reference decoder meets the contract (R79). `MEM_SIZE` is at most `2^32` (R9). That it writes only `ip`, and moves it by exactly the bytes consumed, is in the type of a decoder: it answers descriptors and a count. -/
def Obligations.DecRefMeetsContract : Prop :=
  AddrDecoder.Contract decRef ∧
  (∀ (wRM wR : Width) (s t : State), s.memSize ≤ Config.addressSpace → SameAtIp 6 s t → decRef wRM wR s = decRef wRM wR t) ∧
  (∀ (wRM wR : Width) (s : State) (rm : RM) (r : RField) (n : Nat), decRef wRM wR s = .ok (rm, r, n) → n ≤ 6) ∧
  (∀ (wRM wR : Width) (s : State) (f : Fault), decRef wRM wR s = .error f →
    ∃ k n, f = .memoryFault (s.ip + BitVec.ofNat 32 k) n .read ∧ k ≤ 2 ∧
      s.memRead (s.ip + BitVec.ofNat 32 k) n = .error f)

/-- The summary table of the reference decoder (R78). -/
def Obligations.DecRefTable : Prop :=
  ∀ (wRM wR : Width) (s : State) (mod : Fin 4) (reg rm : Reg),
    s.memRead s.ip 1 = .ok (mod.val * 64 + reg.val * 8 + rm.val) →
    (mod = 3 → decRef wRM wR s = .ok (.reg rm wRM, ⟨reg, wR⟩, 1)) ∧
    (mod = 0 → rm ≠ 4 → rm ≠ 5 → decRef wRM wR s = .ok (.mem (s.reg rm) wRM, ⟨reg, wR⟩, 1)) ∧
    (mod = 0 → rm = 5 → ∀ d, s.memRead (s.ip + 1#32) 4 = .ok d →
      decRef wRM wR s = .ok (.mem (BitVec.ofNat 32 d) wRM, ⟨reg, wR⟩, 5)) ∧
    (mod = 1 → rm ≠ 4 → ∀ d, s.memRead (s.ip + 1#32) 1 = .ok d →
      decRef wRM wR s = .ok (.mem (s.reg rm + (BitVec.ofNat 8 d).signExtend 32) wRM, ⟨reg, wR⟩, 2)) ∧
    (mod = 2 → rm ≠ 4 → ∀ d, s.memRead (s.ip + 1#32) 4 = .ok d →
      decRef wRM wR s = .ok (.mem (s.reg rm + BitVec.ofNat 32 d) wRM, ⟨reg, wR⟩, 5)) ∧
    (rm = 4 → ∀ (scale : Fin 4) (index b : Reg),
      s.memRead (s.ip + 1#32) 1 = .ok (scale.val * 64 + index.val * 8 + b.val) →
      (mod = 0 → b ≠ 5 →
        decRef wRM wR s = .ok (.mem (s.reg b + indexValue s scale index) wRM, ⟨reg, wR⟩, 2)) ∧
      (mod = 0 → b = 5 → ∀ d, s.memRead (s.ip + 2#32) 4 = .ok d →
        decRef wRM wR s = .ok (.mem (BitVec.ofNat 32 d + indexValue s scale index) wRM, ⟨reg, wR⟩, 6)) ∧
      (mod = 1 → ∀ d, s.memRead (s.ip + 2#32) 1 = .ok d →
        decRef wRM wR s =
          .ok (.mem (s.reg b + indexValue s scale index + (BitVec.ofNat 8 d).signExtend 32) wRM, ⟨reg, wR⟩, 3)) ∧
      (mod = 2 → ∀ d, s.memRead (s.ip + 2#32) 4 = .ok d →
        decRef wRM wR s =
          .ok (.mem (s.reg b + indexValue s scale index + BitVec.ofNat 32 d) wRM, ⟨reg, wR⟩, 6)))

/-- Opcode bytes with an empty candidate list (R86, R84). -/
def Obligations.UnlistedOpcodeIsDecodeError : Prop :=
  ∀ (s : State) (b : Nat), Running s →
    (s.memRead s.ip 1 = .ok b → b ≠ 0x66 → opmapDefault b .w4 = [] →
      step s = .fault (.decodeError s.ip (BitVec.ofNat 8 b))) ∧
    (s.memRead s.ip 1 = .ok 0x66 → s.memRead (s.ip + 1#32) 1 = .ok b → opmapDefault b .w2 = [] →
      step s = .fault (.decodeError s.ip (BitVec.ofNat 8 b))) ∧
    opmapDefault 0x66 .w2 = []

/-- Reserved extension values (R87). -/
def Obligations.ReservedExtensionIsDecodeError : Prop :=
  ∀ (s : State) (b : Nat) (rm : RM) (r : RField) (n : Nat), Running s → Reserved b r.val →
    (s.memRead s.ip 1 = .ok b → decRef .w1 .w1 (s.advance 1) = .ok (rm, r, n) →
      step s = .fault (.decodeError s.ip (BitVec.ofNat 8 b))) ∧
    (s.memRead s.ip 1 = .ok 0x66 → s.memRead (s.ip + 1#32) 1 = .ok b →
      decRef .w1 .w1 (s.advance 2) = .ok (rm, r, n) →
      step s = .fault (.decodeError s.ip (BitVec.ofNat 8 b)))

/-- Which faults a program can meet (R262 to R264). -/
def Obligations.StepFaultsAreNamed : Prop :=
  ∀ s : State, s.engine.phase = .idle →
    (∃ t, step s = .next t) ∨ (∃ b, step s = .fault (.decodeError s.ip b)) ∨
    (∃ addr n kind, step s = .fault (.memoryFault addr n kind) ∧ s.memAdmit addr n = false)

/-- Where an instruction completes, and where it stops with which fault (R160, R181, R211, R240, R264, R267). -/
def Obligations.ExecCompletesIffOperandAdmitted : Prop :=
  ∀ (i : Instr) (s : State),
    (operandAdmitted i s = true → ∃ t, exec i s = .next t) ∧
    (operandAdmitted i s = false → ∃ addr w, operandOf i s = some (.mem addr w) ∧
      exec i s = .fault (.memoryFault addr w.bytes (operandAccess i)))

/-- "Only the JMP handler writes `ip` ..."; "No handler reads `ip` as a data operand" (R27). -/
def Obligations.OnlyJmpWritesIp : Prop :=
  ∀ (i : Instr) (s t : State), familyOf i ≠ .jmp → exec i s = .next t →
    t.ip = s.ip ∧ ∀ p : Word, exec i (s.setIp p) = .next (t.setIp p)

/-- The dashes and the written columns of R29's table, over all instructions: a flag the family writes is overwritten, never left stale (R31). The values written are in ArithClosedForms, BitwiseFunction, NotAndNegFunctions and the statement of each instruction. That NEG keeps SF, ZF and OF is the decision D11 of the spec (log entry 15). -/
def Obligations.FlagWriteTable : Prop :=
  ∀ (i : Instr) (s t : State), exec i s = .next t →
    (familyOf i = .mov ∨ familyOf i = .not ∨ familyOf i = .jmp → t.flags = s.flags) ∧
    (familyOf i = .arith → t.flags.cf = s.flags.cf) ∧
    (familyOf i = .bitw → t.flags.of = false ∧ t.flags.cf = false) ∧
    (familyOf i = .neg → t.flags.sf = s.flags.sf ∧ t.flags.zf = s.flags.zf ∧ t.flags.of = s.flags.of) ∧
    (∀ f : Flags, ∃ u, exec i (s.setFlags f) = .next u ∧
      (familyOf i = .arith → u.flags.sf = t.flags.sf ∧ u.flags.zf = t.flags.zf ∧ u.flags.of = t.flags.of) ∧
      (familyOf i = .bitw → u.flags = t.flags) ∧
      (familyOf i = .neg → u.flags.cf = t.flags.cf))

/-- Flags are outputs only (R30). -/
def Obligations.FlagsAreNeverRead : Prop :=
  ∀ (i : Instr) (s : State) (f : Flags),
    (∀ e, exec i s = .fault e → exec i (s.setFlags f) = .fault e) ∧
    (∀ t, exec i s = .next t → ∃ u, exec i (s.setFlags f) = .next u ∧ u.setFlags t.flags = t ∧
      (u.flags.sf = t.flags.sf ∨ (u.flags.sf = f.sf ∧ t.flags.sf = s.flags.sf)) ∧
      (u.flags.zf = t.flags.zf ∨ (u.flags.zf = f.zf ∧ t.flags.zf = s.flags.zf)) ∧
      (u.flags.of = t.flags.of ∨ (u.flags.of = f.of ∧ t.flags.of = s.flags.of)) ∧
      (u.flags.cf = t.flags.cf ∨ (u.flags.cf = f.cf ∧ t.flags.cf = s.flags.cf)))

/-- ADD accumulator, immediate (R182, R180). -/
def Obligations.AddAccImm : Prop :=
  ∀ (p66 : Bool) (imm8 : BitVec 8) (imm : VImm) (s : State),
    Stores (.addAccImm8 p66 imm8) s (.reg 0 .w1)
          (((s.regRead 0 .w1) + imm8.toNat) % Width.w1.mod) (addFlags .w1 (s.regRead 0 .w1) imm8.toNat s.flags) ∧
    Stores (.addAccImmv imm) s (.reg 0 imm.size.width)
          (((s.regRead 0 imm.size.width) + imm.toNat) % imm.size.width.mod) (addFlags imm.size.width (s.regRead 0 imm.size.width) imm.toNat s.flags)

/-- ADD operand, immediate (R183, R180). -/
def Obligations.AddRmImm : Prop :=
  ∀ (p66 : Bool) (v : VSize) (am : Addressing) (imm8 : BitVec 8) (imm : VImm) (s : State) (a : Nat), s.Inv →
    (s.readRM (resolve am .w1 s) = .ok a →
      Stores (.addRmImm8 p66 am imm8) s (resolve am .w1 s)
          ((a + imm8.toNat) % Width.w1.mod) (addFlags .w1 a imm8.toNat s.flags)) ∧
    (s.readRM (resolve am imm.size.width s) = .ok a →
      Stores (.addRmImmv am imm) s (resolve am imm.size.width s)
          ((a + imm.toNat) % imm.size.width.mod) (addFlags imm.size.width a imm.toNat s.flags)) ∧
    (s.readRM (resolve am v.width s) = .ok a →
      Stores (.addRmSImm8 v am imm8) s (resolve am v.width s)
          ((a + (extended v.width imm8)) % v.width.mod) (addFlags v.width a (extended v.width imm8) s.flags))

/-- ADD operand, register, operand as destination (R184, R180). -/
def Obligations.AddRmReg : Prop :=
  ∀ (p66 : Bool) (v : VSize) (am : Addressing) (r : Reg) (s : State) (a : Nat), s.Inv →
    (s.readRM (resolve am .w1 s) = .ok a →
      Stores (.addRmR8 p66 am r) s (resolve am .w1 s)
          ((a + (s.regRead r .w1)) % Width.w1.mod) (addFlags .w1 a (s.regRead r .w1) s.flags)) ∧
    (s.readRM (resolve am v.width s) = .ok a →
      Stores (.addRmRv v am r) s (resolve am v.width s)
          ((a + (s.regRead r v.width)) % v.width.mod) (addFlags v.width a (s.regRead r v.width) s.flags))

/-- ADD register, operand, register as destination (R185, R180). -/
def Obligations.AddRegRm : Prop :=
  ∀ (p66 : Bool) (v : VSize) (am : Addressing) (r : Reg) (s : State) (b : Nat),
    (s.readRM (resolve am .w1 s) = .ok b →
      Stores (.addRRm8 p66 r am) s (.reg r .w1)
          (((s.regRead r .w1) + b) % Width.w1.mod) (addFlags .w1 (s.regRead r .w1) b s.flags)) ∧
    (s.readRM (resolve am v.width s) = .ok b →
      Stores (.addRRmv v r am) s (.reg r v.width)
          (((s.regRead r v.width) + b) % v.width.mod) (addFlags v.width (s.regRead r v.width) b s.flags))

/-- SUB accumulator, immediate (R186, R180). -/
def Obligations.SubAccImm : Prop :=
  ∀ (p66 : Bool) (imm8 : BitVec 8) (imm : VImm) (s : State),
    Stores (.subAccImm8 p66 imm8) s (.reg 0 .w1)
          (difference .w1 (s.regRead 0 .w1) imm8.toNat) (subFlags .w1 (s.regRead 0 .w1) imm8.toNat s.flags) ∧
    Stores (.subAccImmv imm) s (.reg 0 imm.size.width)
          (difference imm.size.width (s.regRead 0 imm.size.width) imm.toNat) (subFlags imm.size.width (s.regRead 0 imm.size.width) imm.toNat s.flags)

/-- SUB operand, immediate (R187, R180). -/
def Obligations.SubRmImm : Prop :=
  ∀ (p66 : Bool) (v : VSize) (am : Addressing) (imm8 : BitVec 8) (imm : VImm) (s : State) (a : Nat), s.Inv →
    (s.readRM (resolve am .w1 s) = .ok a →
      Stores (.subRmImm8 p66 am imm8) s (resolve am .w1 s)
          (difference .w1 a imm8.toNat) (subFlags .w1 a imm8.toNat s.flags)) ∧
    (s.readRM (resolve am imm.size.width s) = .ok a →
      Stores (.subRmImmv am imm) s (resolve am imm.size.width s)
          (difference imm.size.width a imm.toNat) (subFlags imm.size.width a imm.toNat s.flags)) ∧
    (s.readRM (resolve am v.width s) = .ok a →
      Stores (.subRmSImm8 v am imm8) s (resolve am v.width s)
          (difference v.width a (extended v.width imm8)) (subFlags v.width a (extended v.width imm8) s.flags))

/-- SUB operand, register, operand as destination (R188, R180). -/
def Obligations.SubRmReg : Prop :=
  ∀ (p66 : Bool) (v : VSize) (am : Addressing) (r : Reg) (s : State) (a : Nat), s.Inv →
    (s.readRM (resolve am .w1 s) = .ok a →
      Stores (.subRmR8 p66 am r) s (resolve am .w1 s)
          (difference .w1 a (s.regRead r .w1)) (subFlags .w1 a (s.regRead r .w1) s.flags)) ∧
    (s.readRM (resolve am v.width s) = .ok a →
      Stores (.subRmRv v am r) s (resolve am v.width s)
          (difference v.width a (s.regRead r v.width)) (subFlags v.width a (s.regRead r v.width) s.flags))

/-- SUB register, operand, register as destination (R189, R180). -/
def Obligations.SubRegRm : Prop :=
  ∀ (p66 : Bool) (v : VSize) (am : Addressing) (r : Reg) (s : State) (b : Nat),
    (s.readRM (resolve am .w1 s) = .ok b →
      Stores (.subRRm8 p66 r am) s (.reg r .w1)
          (difference .w1 (s.regRead r .w1) b) (subFlags .w1 (s.regRead r .w1) b s.flags)) ∧
    (s.readRM (resolve am v.width s) = .ok b →
      Stores (.subRRmv v r am) s (.reg r v.width)
          (difference v.width (s.regRead r v.width) b) (subFlags v.width (s.regRead r v.width) b s.flags))

/-- CMP in its four forms (R190 to R193). -/
def Obligations.CmpWritesOnlyFlags : Prop :=
  ∀ (p66 : Bool) (v : VSize) (am : Addressing) (r : Reg) (imm8 : BitVec 8) (imm : VImm) (s : State) (a : Nat),
    OnlyFlags (.cmpAccImm8 p66 imm8) s (subFlags .w1 (s.regRead 0 .w1) imm8.toNat s.flags) ∧
    OnlyFlags (.cmpAccImmv imm) s (subFlags imm.size.width (s.regRead 0 imm.size.width) imm.toNat s.flags) ∧
    (s.readRM (resolve am .w1 s) = .ok a →
      OnlyFlags (.cmpRmImm8 p66 am imm8) s (subFlags .w1 a imm8.toNat s.flags) ∧
      OnlyFlags (.cmpRmR8 p66 am r) s (subFlags .w1 a (s.regRead r .w1) s.flags) ∧
      OnlyFlags (.cmpRRm8 p66 r am) s (subFlags .w1 (s.regRead r .w1) a s.flags)) ∧
    (s.readRM (resolve am imm.size.width s) = .ok a →
      OnlyFlags (.cmpRmImmv am imm) s (subFlags imm.size.width a imm.toNat s.flags)) ∧
    (s.readRM (resolve am v.width s) = .ok a →
      OnlyFlags (.cmpRmSImm8 v am imm8) s (subFlags v.width a (extended v.width imm8) s.flags) ∧
      OnlyFlags (.cmpRmRv v am r) s (subFlags v.width a (s.regRead r v.width) s.flags) ∧
      OnlyFlags (.cmpRRmv v r am) s (subFlags v.width (s.regRead r v.width) a s.flags))

/-- AND, OR and XOR accumulator, immediate (R212, R216, R220). -/
def Obligations.BitwiseAccImm : Prop :=
  ∀ (p66 : Bool) (imm8 : BitVec 8) (imm : VImm) (s : State),
    Stores (.andAccImm8 p66 imm8) s (.reg 0 .w1)
          (s.regRead 0 .w1 &&& imm8.toNat) (bitFlags .w1 (s.regRead 0 .w1 &&& imm8.toNat)) ∧
    Stores (.andAccImmv imm) s (.reg 0 imm.size.width)
          (s.regRead 0 imm.size.width &&& imm.toNat) (bitFlags imm.size.width (s.regRead 0 imm.size.width &&& imm.toNat)) ∧
    Stores (.orAccImm8 p66 imm8) s (.reg 0 .w1)
          (s.regRead 0 .w1 ||| imm8.toNat) (bitFlags .w1 (s.regRead 0 .w1 ||| imm8.toNat)) ∧
    Stores (.orAccImmv imm) s (.reg 0 imm.size.width)
          (s.regRead 0 imm.size.width ||| imm.toNat) (bitFlags imm.size.width (s.regRead 0 imm.size.width ||| imm.toNat)) ∧
    Stores (.xorAccImm8 p66 imm8) s (.reg 0 .w1)
          (s.regRead 0 .w1 ^^^ imm8.toNat) (bitFlags .w1 (s.regRead 0 .w1 ^^^ imm8.toNat)) ∧
    Stores (.xorAccImmv imm) s (.reg 0 imm.size.width)
          (s.regRead 0 imm.size.width ^^^ imm.toNat) (bitFlags imm.size.width (s.regRead 0 imm.size.width ^^^ imm.toNat))

/-- AND, OR and XOR operand, immediate (R213, R217, R221). -/
def Obligations.BitwiseRmImm : Prop :=
  ∀ (p66 : Bool) (v : VSize) (am : Addressing) (imm8 : BitVec 8) (imm : VImm) (s : State) (a : Nat), s.Inv →
    (s.readRM (resolve am .w1 s) = .ok a →
      Stores (.andRmImm8 p66 am imm8) s (resolve am .w1 s)
          (a &&& imm8.toNat) (bitFlags .w1 (a &&& imm8.toNat)) ∧
      Stores (.orRmImm8 p66 am imm8) s (resolve am .w1 s)
          (a ||| imm8.toNat) (bitFlags .w1 (a ||| imm8.toNat)) ∧
      Stores (.xorRmImm8 p66 am imm8) s (resolve am .w1 s)
          (a ^^^ imm8.toNat) (bitFlags .w1 (a ^^^ imm8.toNat))) ∧
    (s.readRM (resolve am imm.size.width s) = .ok a →
      Stores (.andRmImmv am imm) s (resolve am imm.size.width s)
          (a &&& imm.toNat) (bitFlags imm.size.width (a &&& imm.toNat)) ∧
      Stores (.orRmImmv am imm) s (resolve am imm.size.width s)
          (a ||| imm.toNat) (bitFlags imm.size.width (a ||| imm.toNat)) ∧
      Stores (.xorRmImmv am imm) s (resolve am imm.size.width s)
          (a ^^^ imm.toNat) (bitFlags imm.size.width (a ^^^ imm.toNat))) ∧
    (s.readRM (resolve am v.width s) = .ok a →
      Stores (.andRmSImm8 v am imm8) s (resolve am v.width s)
          (a &&& extended v.width imm8) (bitFlags v.width (a &&& extended v.width imm8)) ∧
      Stores (.orRmSImm8 v am imm8) s (resolve am v.width s)
          (a ||| extended v.width imm8) (bitFlags v.width (a ||| extended v.width imm8)) ∧
      Stores (.xorRmSImm8 v am imm8) s (resolve am v.width s)
          (a ^^^ extended v.width imm8) (bitFlags v.width (a ^^^ extended v.width imm8)))

/-- AND, OR and XOR operand, register, operand as destination (R214, R218, R222). -/
def Obligations.BitwiseRmReg : Prop :=
  ∀ (p66 : Bool) (v : VSize) (am : Addressing) (r : Reg) (s : State) (a : Nat), s.Inv →
    (s.readRM (resolve am .w1 s) = .ok a →
      Stores (.andRmR8 p66 am r) s (resolve am .w1 s)
          (a &&& s.regRead r .w1) (bitFlags .w1 (a &&& s.regRead r .w1)) ∧
      Stores (.orRmR8 p66 am r) s (resolve am .w1 s)
          (a ||| s.regRead r .w1) (bitFlags .w1 (a ||| s.regRead r .w1)) ∧
      Stores (.xorRmR8 p66 am r) s (resolve am .w1 s)
          (a ^^^ s.regRead r .w1) (bitFlags .w1 (a ^^^ s.regRead r .w1))) ∧
    (s.readRM (resolve am v.width s) = .ok a →
      Stores (.andRmRv v am r) s (resolve am v.width s)
          (a &&& s.regRead r v.width) (bitFlags v.width (a &&& s.regRead r v.width)) ∧
      Stores (.orRmRv v am r) s (resolve am v.width s)
          (a ||| s.regRead r v.width) (bitFlags v.width (a ||| s.regRead r v.width)) ∧
      Stores (.xorRmRv v am r) s (resolve am v.width s)
          (a ^^^ s.regRead r v.width) (bitFlags v.width (a ^^^ s.regRead r v.width)))

/-- AND, OR and XOR register, operand, register as destination (R215, R219, R223). -/
def Obligations.BitwiseRegRm : Prop :=
  ∀ (p66 : Bool) (v : VSize) (am : Addressing) (r : Reg) (s : State) (b : Nat),
    (s.readRM (resolve am .w1 s) = .ok b →
      Stores (.andRRm8 p66 r am) s (.reg r .w1)
          (s.regRead r .w1 &&& b) (bitFlags .w1 (s.regRead r .w1 &&& b)) ∧
      Stores (.orRRm8 p66 r am) s (.reg r .w1)
          (s.regRead r .w1 ||| b) (bitFlags .w1 (s.regRead r .w1 ||| b)) ∧
      Stores (.xorRRm8 p66 r am) s (.reg r .w1)
          (s.regRead r .w1 ^^^ b) (bitFlags .w1 (s.regRead r .w1 ^^^ b))) ∧
    (s.readRM (resolve am v.width s) = .ok b →
      Stores (.andRRmv v r am) s (.reg r v.width)
          (s.regRead r v.width &&& b) (bitFlags v.width (s.regRead r v.width &&& b)) ∧
      Stores (.orRRmv v r am) s (.reg r v.width)
          (s.regRead r v.width ||| b) (bitFlags v.width (s.regRead r v.width ||| b)) ∧
      Stores (.xorRRmv v r am) s (.reg r v.width)
          (s.regRead r v.width ^^^ b) (bitFlags v.width (s.regRead r v.width ^^^ b)))

/-- TEST in its forms that have an opcode byte (R224 to R226). -/
def Obligations.TestWritesOnlyFlags : Prop :=
  ∀ (p66 : Bool) (v : VSize) (am : Addressing) (r : Reg) (imm8 : BitVec 8) (imm : VImm) (s : State) (a : Nat),
    OnlyFlags (.testAccImm8 p66 imm8) s (bitFlags .w1 (s.regRead 0 .w1 &&& imm8.toNat)) ∧
    OnlyFlags (.testAccImmv imm) s (bitFlags imm.size.width (s.regRead 0 imm.size.width &&& imm.toNat)) ∧
    (s.readRM (resolve am .w1 s) = .ok a →
      OnlyFlags (.testRmImm8 p66 am imm8) s (bitFlags .w1 (a &&& imm8.toNat)) ∧
      OnlyFlags (.testRmR8 p66 am r) s (bitFlags .w1 (a &&& s.regRead r .w1))) ∧
    (s.readRM (resolve am imm.size.width s) = .ok a →
      OnlyFlags (.testRmImmv am imm) s (bitFlags imm.size.width (a &&& imm.toNat))) ∧
    (s.readRM (resolve am v.width s) = .ok a →
      OnlyFlags (.testRmRv v am r) s (bitFlags v.width (a &&& s.regRead r v.width)))

/-- TEST with `hsel = ALU_R_RM` (R227). -/
def Obligations.TestRegisterDestinationCommand : Prop :=
  ∀ (dec : AddrDecoder) (w : Width) (s : State), dec.Described →
    LegalCommand (Handler.aluRRm (.bitw .test) w).command ∧
    invoke dec (Handler.aluRRm (.bitw .test) w).command s = invoke dec (Handler.aluRmR (.bitw .test) w).command s

/-- NOT (R241). -/
def Obligations.NotComplementsOperand : Prop :=
  ∀ (p66 : Bool) (v : VSize) (am : Addressing) (s : State) (a : Nat), s.Inv →
    (s.readRM (resolve am .w1 s) = .ok a →
      Stores (.notRm8 p66 am) s (resolve am .w1 s) (0xFF - a) s.flags) ∧
    (s.readRM (resolve am v.width s) = .ok a →
      Stores (.notRmv v am) s (resolve am v.width s) (v.width.max - a) s.flags)

/-- NEG (R242, R243). -/
def Obligations.NegNegatesOperand : Prop :=
  ∀ (p66 : Bool) (v : VSize) (am : Addressing) (s : State) (a : Nat), s.Inv →
    (s.readRM (resolve am .w1 s) = .ok a →
      Stores (.negRm8 p66 am) s (resolve am .w1 s) ((0x100 - a) % 0x100)
        ⟨s.flags.sf, s.flags.zf, s.flags.of, decide (a = 0)⟩) ∧
    (s.readRM (resolve am v.width s) = .ok a →
      Stores (.negRmv v am) s (resolve am v.width s) ((v.width.mod - a) % v.width.mod)
        ⟨s.flags.sf, s.flags.zf, s.flags.of, decide (a = 0)⟩)

/-- MOV register, immediate (R161). -/
def Obligations.MovRegImm : Prop :=
  ∀ (p66 : Bool) (r : Reg) (imm8 : BitVec 8) (imm : VImm) (s : State),
    Stores (.movRImm8 p66 r imm8) s (.reg r .w1) imm8.toNat s.flags ∧
    Stores (.movRImmv r imm) s (.reg r imm.size.width) imm.toNat s.flags

/-- MOV operand, immediate (R162). -/
def Obligations.MovRmImm : Prop :=
  ∀ (p66 : Bool) (am : Addressing) (imm8 : BitVec 8) (imm : VImm) (s : State), s.Inv →
    (s.admits (resolve am .w1 s) = true →
      Stores (.movRmImm8 p66 am imm8) s (resolve am .w1 s) imm8.toNat s.flags) ∧
    (s.admits (resolve am imm.size.width s) = true →
      Stores (.movRmImmv am imm) s (resolve am imm.size.width s) imm.toNat s.flags)

/-- MOV operand, register (R163). -/
def Obligations.MovRmReg : Prop :=
  ∀ (p66 : Bool) (v : VSize) (am : Addressing) (r : Reg) (s : State), s.Inv →
    (s.admits (resolve am .w1 s) = true →
      Stores (.movRmR8 p66 am r) s (resolve am .w1 s) (s.regRead r .w1) s.flags) ∧
    (s.admits (resolve am v.width s) = true →
      Stores (.movRmRv v am r) s (resolve am v.width s) (s.regRead r v.width) s.flags)

/-- MOV register, operand (R164). -/
def Obligations.MovRegRm : Prop :=
  ∀ (p66 : Bool) (v : VSize) (am : Addressing) (r : Reg) (s : State) (b : Nat),
    (s.readRM (resolve am .w1 s) = .ok b →
      Stores (.movRRm8 p66 r am) s (.reg r .w1) b s.flags) ∧
    (s.readRM (resolve am v.width s) = .ok b →
      Stores (.movRRmv v r am) s (.reg r v.width) b s.flags)

/-- MOV register 0, direct offset (R165). -/
def Obligations.MovAccMoffs : Prop :=
  ∀ (p66 : Bool) (v : VSize) (addr : BitVec 32) (s : State) (b : Nat),
    (s.memRead addr 1 = .ok b → Stores (.movAccMoffs8 p66 addr) s (.reg 0 .w1) b s.flags) ∧
    (s.memRead addr v.width.bytes = .ok b → Stores (.movAccMoffsv v addr) s (.reg 0 v.width) b s.flags)

/-- MOV direct offset, register 0 (R166). -/
def Obligations.MovMoffsAcc : Prop :=
  ∀ (p66 : Bool) (v : VSize) (addr : BitVec 32) (s : State), s.Inv →
    (s.memAdmit addr 1 = true →
      Stores (.movMoffsAcc8 p66 addr) s (.mem addr .w1) (s.regRead 0 .w1) s.flags) ∧
    (s.memAdmit addr v.width.bytes = true →
      Stores (.movMoffsAccv v addr) s (.mem addr v.width) (s.regRead 0 v.width) s.flags)

/-- JMP (R250, R251). -/
def Obligations.JmpAddsDisplacement : Prop :=
  ∀ (p66 : Bool) (d8 : BitVec 8) (d : VImm) (s : State),
    OnlyIp (.jmpRel8 p66 d8) s (s.ip + d8.signExtend 32) ∧
    OnlyIp (.jmpRelv d) s (s.ip + displacement d)
end

