-- ==== Sys2Proof/Laws/State.lean ====
section
/-! SUPPORT. One lemma per field and update of State and of Flags. -/

namespace Sys2Proof.Machine

/-! ### `setReg` -/

@[simp] theorem State.setReg_ip (s : State) (i : Reg) (v : Word) : (s.setReg i v).ip = s.ip := rfl
@[simp] theorem State.setReg_flags (s : State) (i : Reg) (v : Word) : (s.setReg i v).flags = s.flags := rfl
@[simp] theorem State.setReg_mem (s : State) (i : Reg) (v : Word) : (s.setReg i v).mem = s.mem := rfl
@[simp] theorem State.setReg_memSize (s : State) (i : Reg) (v : Word) : (s.setReg i v).memSize = s.memSize := rfl
@[simp] theorem State.setReg_haltAddr (s : State) (i : Reg) (v : Word) : (s.setReg i v).haltAddr = s.haltAddr := rfl
@[simp] theorem State.setReg_engine (s : State) (i : Reg) (v : Word) : (s.setReg i v).engine = s.engine := rfl

theorem State.setReg_reg (s : State) (i j : Reg) (v : Word) :
    (s.setReg i v).reg j = if j = i then v else s.reg j := by
  simp only [State.reg, State.setReg, Vector.get_eq_getElem, Vector.getElem_set, Fin.ext_iff, eq_comm]

@[simp] theorem State.setReg_reg_self (s : State) (i : Reg) (v : Word) : (s.setReg i v).reg i = v := by
  simp [State.setReg_reg]

theorem State.setReg_reg_ne (s : State) {i j : Reg} (v : Word) (h : j ≠ i) : (s.setReg i v).reg j = s.reg j := by
  simp [State.setReg_reg, h]

/-! ### `regWrite` -/

@[simp] theorem State.regWrite_ip (s : State) (i : Reg) (w : Width) (v : Nat) : (s.regWrite i w v).ip = s.ip := rfl
@[simp] theorem State.regWrite_flags (s : State) (i : Reg) (w : Width) (v : Nat) :
    (s.regWrite i w v).flags = s.flags := rfl
@[simp] theorem State.regWrite_mem (s : State) (i : Reg) (w : Width) (v : Nat) : (s.regWrite i w v).mem = s.mem := rfl
@[simp] theorem State.regWrite_memSize (s : State) (i : Reg) (w : Width) (v : Nat) :
    (s.regWrite i w v).memSize = s.memSize := rfl
@[simp] theorem State.regWrite_haltAddr (s : State) (i : Reg) (w : Width) (v : Nat) :
    (s.regWrite i w v).haltAddr = s.haltAddr := rfl
@[simp] theorem State.regWrite_engine (s : State) (i : Reg) (w : Width) (v : Nat) :
    (s.regWrite i w v).engine = s.engine := rfl

/-! ### `setFlags` -/

@[simp] theorem State.setFlags_regs (s : State) (f : Flags) : (s.setFlags f).regs = s.regs := rfl
@[simp] theorem State.setFlags_reg (s : State) (f : Flags) (i : Reg) : (s.setFlags f).reg i = s.reg i := rfl
@[simp] theorem State.setFlags_ip (s : State) (f : Flags) : (s.setFlags f).ip = s.ip := rfl
@[simp] theorem State.setFlags_flags (s : State) (f : Flags) : (s.setFlags f).flags = f := rfl
@[simp] theorem State.setFlags_mem (s : State) (f : Flags) : (s.setFlags f).mem = s.mem := rfl
@[simp] theorem State.setFlags_memSize (s : State) (f : Flags) : (s.setFlags f).memSize = s.memSize := rfl
@[simp] theorem State.setFlags_haltAddr (s : State) (f : Flags) : (s.setFlags f).haltAddr = s.haltAddr := rfl
@[simp] theorem State.setFlags_engine (s : State) (f : Flags) : (s.setFlags f).engine = s.engine := rfl

/-! ### `setIp` and `advance` -/

@[simp] theorem State.setIp_regs (s : State) (t : Word) : (s.setIp t).regs = s.regs := rfl
@[simp] theorem State.setIp_reg (s : State) (t : Word) (i : Reg) : (s.setIp t).reg i = s.reg i := rfl
@[simp] theorem State.setIp_ip (s : State) (t : Word) : (s.setIp t).ip = t := rfl
@[simp] theorem State.setIp_flags (s : State) (t : Word) : (s.setIp t).flags = s.flags := rfl
@[simp] theorem State.setIp_mem (s : State) (t : Word) : (s.setIp t).mem = s.mem := rfl
@[simp] theorem State.setIp_memSize (s : State) (t : Word) : (s.setIp t).memSize = s.memSize := rfl
@[simp] theorem State.setIp_haltAddr (s : State) (t : Word) : (s.setIp t).haltAddr = s.haltAddr := rfl
@[simp] theorem State.setIp_engine (s : State) (t : Word) : (s.setIp t).engine = s.engine := rfl
@[simp] theorem State.setIp_self (s : State) : s.setIp s.ip = s := rfl
@[simp] theorem State.setIp_setIp (s : State) (t u : Word) : (s.setIp t).setIp u = s.setIp u := rfl

@[simp] theorem State.advance_regs (s : State) (n : Nat) : (s.advance n).regs = s.regs := rfl
@[simp] theorem State.advance_reg (s : State) (n : Nat) (i : Reg) : (s.advance n).reg i = s.reg i := rfl
@[simp] theorem State.advance_ip (s : State) (n : Nat) : (s.advance n).ip = s.ip + BitVec.ofNat 32 n := rfl
@[simp] theorem State.advance_flags (s : State) (n : Nat) : (s.advance n).flags = s.flags := rfl
@[simp] theorem State.advance_mem (s : State) (n : Nat) : (s.advance n).mem = s.mem := rfl
@[simp] theorem State.advance_memSize (s : State) (n : Nat) : (s.advance n).memSize = s.memSize := rfl
@[simp] theorem State.advance_haltAddr (s : State) (n : Nat) : (s.advance n).haltAddr = s.haltAddr := rfl
@[simp] theorem State.advance_engine (s : State) (n : Nat) : (s.advance n).engine = s.engine := rfl
@[simp] theorem State.advance_setIp (s : State) (n : Nat) (t : Word) : (s.advance n).setIp t = s.setIp t := rfl

theorem State.advance_advance (s : State) (n m : Nat) : (s.advance n).advance m = s.advance (n + m) := by
  simp [State.advance, BitVec.add_assoc, BitVec.ofNat_add]

/-! ### `setEngine` -/

@[simp] theorem State.setEngine_regs (s : State) (e : Engine) : (s.setEngine e).regs = s.regs := rfl
@[simp] theorem State.setEngine_reg (s : State) (e : Engine) (i : Reg) : (s.setEngine e).reg i = s.reg i := rfl
@[simp] theorem State.setEngine_ip (s : State) (e : Engine) : (s.setEngine e).ip = s.ip := rfl
@[simp] theorem State.setEngine_flags (s : State) (e : Engine) : (s.setEngine e).flags = s.flags := rfl
@[simp] theorem State.setEngine_mem (s : State) (e : Engine) : (s.setEngine e).mem = s.mem := rfl
@[simp] theorem State.setEngine_memSize (s : State) (e : Engine) : (s.setEngine e).memSize = s.memSize := rfl
@[simp] theorem State.setEngine_haltAddr (s : State) (e : Engine) : (s.setEngine e).haltAddr = s.haltAddr := rfl
@[simp] theorem State.setEngine_engine (s : State) (e : Engine) : (s.setEngine e).engine = e := rfl
@[simp] theorem State.setEngine_setEngine (s : State) (e f : Engine) : (s.setEngine e).setEngine f = s.setEngine f := rfl
@[simp] theorem State.setEngine_self (s : State) : s.setEngine s.engine = s := rfl

/-! ### What reads of a state do not see -/

@[simp] theorem State.regRead_setFlags (s : State) (f : Flags) (i : Reg) (w : Width) :
    (s.setFlags f).regRead i w = s.regRead i w := rfl
@[simp] theorem State.regRead_setIp (s : State) (t : Word) (i : Reg) (w : Width) :
    (s.setIp t).regRead i w = s.regRead i w := rfl
@[simp] theorem State.regRead_advance (s : State) (n : Nat) (i : Reg) (w : Width) :
    (s.advance n).regRead i w = s.regRead i w := rfl
@[simp] theorem State.regRead_setEngine (s : State) (e : Engine) (i : Reg) (w : Width) :
    (s.setEngine e).regRead i w = s.regRead i w := rfl
@[simp] theorem State.memAdmit_setFlags (s : State) (f : Flags) (a : Word) (n : Nat) :
    (s.setFlags f).memAdmit a n = s.memAdmit a n := rfl
@[simp] theorem State.memAdmit_setIp (s : State) (t : Word) (a : Word) (n : Nat) :
    (s.setIp t).memAdmit a n = s.memAdmit a n := rfl
@[simp] theorem State.memAdmit_advance (s : State) (k : Nat) (a : Word) (n : Nat) :
    (s.advance k).memAdmit a n = s.memAdmit a n := rfl
@[simp] theorem State.memAdmit_setEngine (s : State) (e : Engine) (a : Word) (n : Nat) :
    (s.setEngine e).memAdmit a n = s.memAdmit a n := rfl
@[simp] theorem State.memAdmit_regWrite (s : State) (i : Reg) (w : Width) (v : Nat) (a : Word) (n : Nat) :
    (s.regWrite i w v).memAdmit a n = s.memAdmit a n := rfl
@[simp] theorem State.memRead_setFlags (s : State) (f : Flags) (a : Word) (n : Nat) :
    (s.setFlags f).memRead a n = s.memRead a n := rfl
@[simp] theorem State.memRead_setIp (s : State) (t : Word) (a : Word) (n : Nat) :
    (s.setIp t).memRead a n = s.memRead a n := rfl
@[simp] theorem State.memRead_advance (s : State) (k : Nat) (a : Word) (n : Nat) :
    (s.advance k).memRead a n = s.memRead a n := rfl
@[simp] theorem State.memRead_setEngine (s : State) (e : Engine) (a : Word) (n : Nat) :
    (s.setEngine e).memRead a n = s.memRead a n := rfl
@[simp] theorem State.byteAt_setFlags (s : State) (f : Flags) (a : Nat) : (s.setFlags f).byteAt a = s.byteAt a := rfl
@[simp] theorem State.byteAt_setIp (s : State) (t : Word) (a : Nat) : (s.setIp t).byteAt a = s.byteAt a := rfl
@[simp] theorem State.byteAt_advance (s : State) (n : Nat) (a : Nat) : (s.advance n).byteAt a = s.byteAt a := rfl
@[simp] theorem State.byteAt_setEngine (s : State) (e : Engine) (a : Nat) :
    (s.setEngine e).byteAt a = s.byteAt a := rfl
@[simp] theorem State.byteAt_regWrite (s : State) (i : Reg) (w : Width) (v : Nat) (a : Nat) :
    (s.regWrite i w v).byteAt a = s.byteAt a := rfl
@[simp] theorem State.readRM_setFlags (s : State) (f : Flags) (rm : RM) :
    (s.setFlags f).readRM rm = s.readRM rm := by cases rm <;> rfl
@[simp] theorem State.readRM_setIp (s : State) (t : Word) (rm : RM) :
    (s.setIp t).readRM rm = s.readRM rm := by cases rm <;> rfl
@[simp] theorem State.readRM_advance (s : State) (n : Nat) (rm : RM) :
    (s.advance n).readRM rm = s.readRM rm := by cases rm <;> rfl
@[simp] theorem State.readRM_setEngine (s : State) (e : Engine) (rm : RM) :
    (s.setEngine e).readRM rm = s.readRM rm := by cases rm <;> rfl

/-! ### Flags -/

@[simp] theorem Flags.set_sf (f : Flags) (b : Bool) : f.set .sf b = ⟨b, f.zf, f.of, f.cf⟩ := rfl
@[simp] theorem Flags.set_zf (f : Flags) (b : Bool) : f.set .zf b = ⟨f.sf, b, f.of, f.cf⟩ := rfl
@[simp] theorem Flags.set_of (f : Flags) (b : Bool) : f.set .of b = ⟨f.sf, f.zf, b, f.cf⟩ := rfl
@[simp] theorem Flags.set_cf (f : Flags) (b : Bool) : f.set .cf b = ⟨f.sf, f.zf, f.of, b⟩ := rfl

theorem arithFlags_eq (w : Width) (tmp : Nat) (f : Flags) :
    arithFlags w tmp f = ⟨signbit w tmp, trunc w tmp == 0, decide (w.max < tmp), f.cf⟩ := rfl

theorem bitwFlags_eq (w : Width) (tmp : Nat) (f : Flags) :
    bitwFlags w tmp f = ⟨signbit w tmp, trunc w tmp == 0, false, false⟩ := rfl

/-- Two states whose fields and registers agree are the same state. -/
theorem State.ext_reg {s t : State} (hr : ∀ i, s.reg i = t.reg i) (hip : s.ip = t.ip) (hf : s.flags = t.flags)
    (hm : s.mem = t.mem) (hz : s.memSize = t.memSize) (hh : s.haltAddr = t.haltAddr) (he : s.engine = t.engine) :
    s = t := by
  have hregs : s.regs = t.regs := by
    apply Vector.ext
    intro i hi
    simpa [State.reg, Vector.get_eq_getElem] using hr ⟨i, hi⟩
  cases s
  cases t
  simp_all

end Sys2Proof.Machine
end

