-- ==== Sys2Proof/Laws/Memory.lean ====
section
/-! SUPPORT. The laws of memory: a read after a write, other addresses untouched, the canonical form kept by every
operation; little-endian byte strings. -/

namespace Sys2Proof

/-! ### Byte strings -/

@[simp] theorem leBytes_length (n v : Nat) : (leBytes n v).length = n := by
  induction n generalizing v with
  | zero => rfl
  | succ n ih => simp [leBytes, ih]

/-- A byte string read back is the pattern it was made from, modulo its size. -/
theorem leNat_leBytes (n v : Nat) : leNat (leBytes n v) = v % 2 ^ (8 * n) := by
  induction n generalizing v with
  | zero => simp [leBytes, leNat, Nat.mod_one]
  | succ n ih =>
    have h : 2 ^ (8 * (n + 1)) = 256 * 2 ^ (8 * n) := by rw [Nat.mul_add, Nat.pow_add]; omega
    rw [leBytes, leNat, ih, h, Nat.mod_mul, BitVec.toNat_ofNat]

theorem leNat_lt (bs : List Byte) : leNat bs < 2 ^ (8 * bs.length) := by
  induction bs with
  | nil => simp [leNat]
  | cons b bs ih =>
    have hb := b.isLt
    have h : 2 ^ (8 * (bs.length + 1)) = 256 * 2 ^ (8 * bs.length) := by rw [Nat.mul_add, Nat.pow_add]; omega
    simp only [leNat, List.length_cons, h]
    omega

/-- A byte string is the byte string of the number it stands for. -/
theorem leBytes_leNat (bs : List Byte) : leBytes bs.length (leNat bs) = bs := by
  induction bs with
  | nil => rfl
  | cons b bs ih =>
    have hb := b.isLt
    have h1 : (b.toNat + 256 * leNat bs) / 256 = leNat bs := by omega
    have h2 : BitVec.ofNat 8 (b.toNat + 256 * leNat bs) = b := by
      apply BitVec.eq_of_toNat_eq
      rw [BitVec.toNat_ofNat]
      omega
    simp only [List.length_cons, leBytes, leNat, h1, h2, ih]

/-- Byte `k` of a little-endian byte string is bits `8k+7:8k` of the pattern (R52). -/
theorem leBytes_getElem (n v k : Nat) (h : k < (leBytes n v).length) :
    (leBytes n v)[k] = BitVec.ofNat 8 (v / 2 ^ (8 * k)) := by
  induction n generalizing v k with
  | zero => simp [leBytes] at h
  | succ n ih =>
    cases k with
    | zero => simp [leBytes]
    | succ k =>
      have hp : 2 ^ (8 * (k + 1)) = 256 * 2 ^ (8 * k) := by rw [Nat.mul_add, Nat.pow_add]; omega
      simp only [leBytes, List.getElem_cons_succ]
      rw [ih, Nat.div_div_eq_div_mul, hp]

end Sys2Proof

namespace Sys2Proof.Machine

/-! ### One byte -/

theorem Memory.get_cell_append (a x : Nat) (b : Byte) (m : Memory) (h : ∀ c ∈ m, a < c.1) :
    Memory.get (Memory.cell a b ++ m) x = if x = a then b else m.get x := by
  have hm : ∀ m : Memory, (∀ c ∈ m, a < c.1) → m.get a = Config.unlistedByte := by
    intro m
    induction m with
    | nil => intro _; rfl
    | cons c cs ih =>
      intro h
      have hc := h c (by simp)
      have hne : ¬ c.1 = a := by omega
      simp only [Memory.get, hne, if_false]
      exact ih fun d hd => h d (by simp [hd])
  unfold Memory.cell
  split
  · next hb =>
    split
    · next hx => subst hx; simp [hm m h, hb]
    · rfl
  · simp only [List.cons_append, List.nil_append, Memory.get]
    by_cases hx : x = a
    · simp [hx]
    · simp [hx, Ne.symm hx]

/-- The canonical form, unfolded. -/
theorem Memory.wf_iff (m : Memory) :
    m.wf = true ↔ m.Pairwise (fun c d => c.1 < d.1) ∧ ∀ c ∈ m, c.2 ≠ Config.unlistedByte := by
  simp [Memory.wf]

theorem Memory.wf_nil : Memory.wf [] = true := by decide

theorem Memory.wf_tail {c : Host.Cell} {cs : Memory} (h : Memory.wf (c :: cs) = true) : Memory.wf cs = true := by
  rw [Memory.wf_iff] at *
  exact ⟨(List.pairwise_cons.mp h.1).2, fun d hd => h.2 d (by simp [hd])⟩

theorem Memory.wf_head {c : Host.Cell} {cs : Memory} (h : Memory.wf (c :: cs) = true) : ∀ d ∈ cs, c.1 < d.1 := by
  rw [Memory.wf_iff] at h
  exact (List.pairwise_cons.mp h.1).1

/-- A read after a one-byte write: the byte written at its address, the byte as it was anywhere else. -/
theorem Memory.get_set (m : Memory) (a x : Nat) (b : Byte) (h : m.wf = true) :
    (m.set a b).get x = if x = a then b else m.get x := by
  induction m with
  | nil => simpa [Memory.set] using Memory.get_cell_append a x b [] (by simp)
  | cons c cs ih =>
    have htail := Memory.wf_tail h
    have hhead := Memory.wf_head h
    simp only [Memory.set]
    split
    · next hlt =>
      exact Memory.get_cell_append a x b (c :: cs) (by
        intro d hd
        rcases List.mem_cons.mp hd with rfl | hd
        · exact hlt
        · have := hhead d hd; omega)
    · split
      · next heq =>
        rw [Memory.get_cell_append a x b cs (by intro d hd; have := hhead d hd; omega)]
        by_cases hx : x = a
        · simp [hx]
        · have : ¬ c.1 = x := by omega
          simp [hx, Memory.get, this]
      · next hne =>
        simp only [Memory.get, ih htail]
        by_cases hx : c.1 = x
        · have : ¬ x = a := by omega
          simp [hx, this]
        · simp [hx]

theorem Memory.mem_cell {a : Nat} {b : Byte} {c : Host.Cell} (h : c ∈ Memory.cell a b) :
    c = (a, b) ∧ b ≠ Config.unlistedByte := by
  unfold Memory.cell at h
  split at h
  · simp at h
  · next hb => exact ⟨by simpa using h, hb⟩

/-- Every cell of a memory with one byte written is the new one or an old one. -/
theorem Memory.mem_set {m : Memory} {a : Nat} {b : Byte} {c : Host.Cell} (h : c ∈ m.set a b) :
    (c = (a, b) ∧ b ≠ Config.unlistedByte) ∨ c ∈ m := by
  induction m with
  | nil => exact .inl (Memory.mem_cell h)
  | cons d ds ih =>
    simp only [Memory.set] at h
    split at h
    · rcases List.mem_append.mp h with h | h
      · exact .inl (Memory.mem_cell h)
      · exact .inr h
    · split at h
      · rcases List.mem_append.mp h with h | h
        · exact .inl (Memory.mem_cell h)
        · exact .inr (by simp [h])
      · rcases List.mem_cons.mp h with h | h
        · exact .inr (by simp [h])
        · rcases ih h with h | h
          · exact .inl h
          · exact .inr (by simp [h])

theorem Memory.pairwise_cell_append {a : Nat} {b : Byte} {m : Memory} (hm : m.Pairwise fun c d => c.1 < d.1)
    (h : ∀ c ∈ m, a < c.1) : (Memory.cell a b ++ m).Pairwise fun c d => c.1 < d.1 := by
  unfold Memory.cell
  split
  · simpa using hm
  · exact List.pairwise_cons.mpr ⟨h, hm⟩

/-- A one-byte write keeps the canonical form. -/
theorem Memory.set_wf (m : Memory) (a : Nat) (b : Byte) (h : m.wf = true) : (m.set a b).wf = true := by
  rw [Memory.wf_iff]
  refine ⟨?_, fun c hc => ?_⟩
  · induction m with
    | nil => simpa [Memory.set] using Memory.pairwise_cell_append (a := a) (b := b) (m := []) (by simp) (by simp)
    | cons c cs ih =>
      have htail := Memory.wf_tail h
      have hhead := Memory.wf_head h
      have hp := (Memory.wf_iff _).mp h
      simp only [Memory.set]
      split
      · next hlt =>
        exact Memory.pairwise_cell_append hp.1 (by
          intro d hd
          rcases List.mem_cons.mp hd with rfl | hd
          · exact hlt
          · have := hhead d hd; omega)
      · split
        · next heq =>
          exact Memory.pairwise_cell_append (List.pairwise_cons.mp hp.1).2 (by
            intro d hd; have := hhead d hd; omega)
        · next hlt hne =>
          refine List.pairwise_cons.mpr ⟨fun d hd => ?_, ih htail⟩
          rcases Memory.mem_set hd with ⟨rfl, -⟩ | hd
          · show c.1 < a; omega
          · exact hhead d hd
  · rcases Memory.mem_set hc with ⟨rfl, hb⟩ | hc
    · exact hb
    · exact ((Memory.wf_iff m).mp h).2 c hc

/-! ### Byte strings in memory -/

@[simp] theorem Memory.getBytes_length (m : Memory) (a n : Nat) : (m.getBytes a n).length = n := by
  induction n generalizing a with
  | zero => rfl
  | succ n ih => simp [Memory.getBytes, ih]

theorem Memory.getBytes_getElem (m : Memory) (a n k : Nat) (h : k < (m.getBytes a n).length) :
    (m.getBytes a n)[k] = m.get (a + k) := by
  induction n generalizing a k with
  | zero => simp [Memory.getBytes] at h
  | succ n ih =>
    cases k with
    | zero => simp [Memory.getBytes]
    | succ k =>
      simp only [Memory.getBytes, List.getElem_cons_succ]
      rw [ih, Nat.add_assoc, Nat.add_comm 1 k]

/-- A byte-string write keeps the canonical form. -/
theorem Memory.setBytes_wf (m : Memory) (a : Nat) (bs : List Byte) (h : m.wf = true) : (m.setBytes a bs).wf = true := by
  induction bs generalizing m a with
  | nil => exact h
  | cons b bs ih => exact ih _ _ (Memory.set_wf m a b h)

/-- A byte-string write leaves every address outside it alone. -/
theorem Memory.get_setBytes_outside (m : Memory) (a x : Nat) (bs : List Byte) (h : m.wf = true)
    (hx : x < a ∨ a + bs.length ≤ x) : (m.setBytes a bs).get x = m.get x := by
  induction bs generalizing m a with
  | nil => rfl
  | cons b bs ih =>
    simp only [List.length_cons] at hx
    rw [Memory.setBytes, ih _ _ (Memory.set_wf m a b h) (by omega), Memory.get_set m a x b h]
    have : ¬ x = a := by omega
    simp [this]

/-- A byte-string write stores byte `k` at the `k`th address. -/
theorem Memory.get_setBytes_inside (m : Memory) (a k : Nat) (bs : List Byte) (h : m.wf = true) (hk : k < bs.length) :
    (m.setBytes a bs).get (a + k) = bs[k] := by
  induction bs generalizing m a k with
  | nil => simp at hk
  | cons b bs ih =>
    cases k with
    | zero =>
      rw [Memory.setBytes, Memory.get_setBytes_outside _ _ _ _ (Memory.set_wf m a b h) (by omega),
        Memory.get_set m a _ b h]
      simp
    | succ k =>
      have := ih (m.set a b) (a + 1) k (Memory.set_wf m a b h) (by simpa using hk)
      rw [Memory.setBytes, List.getElem_cons_succ, ← this]
      congr 1
      omega

/-- The byte string just written reads back. -/
theorem Memory.getBytes_setBytes (m : Memory) (a : Nat) (bs : List Byte) (h : m.wf = true) :
    (m.setBytes a bs).getBytes a bs.length = bs := by
  apply List.ext_getElem (by simp)
  intro k h1 h2
  rw [Memory.getBytes_getElem, Memory.get_setBytes_inside m a k bs h h2]

/-- Every cell of a memory with a byte string written lies in the string's addresses or was there before. -/
theorem Memory.mem_setBytes {m : Memory} {a : Nat} {bs : List Byte} {c : Host.Cell} (h : c ∈ m.setBytes a bs) :
    (a ≤ c.1 ∧ c.1 < a + bs.length) ∨ c ∈ m := by
  induction bs generalizing m a with
  | nil => exact .inr h
  | cons b bs ih =>
    rcases ih h with h | h
    · exact .inl (by simp only [List.length_cons]; omega)
    · rcases Memory.mem_set h with ⟨rfl, -⟩ | h
      · exact .inl (by simp)
      · exact .inr h

end Sys2Proof.Machine
end

