-- ==== Sys2Proof/Laws/Ops.lean ====
section
/-! SUPPORT. One lemma for each shared operation that says once what it does when it answers. -/

namespace Sys2Proof.Machine

/-! ### Widths -/

theorem Width.bytes_pos (w : Width) : 0 < w.bytes := by cases w <;> decide

theorem Width.mod_pos (w : Width) : 0 < w.mod := by cases w <;> decide

theorem Width.mod_dvd (w : Width) : w.mod ∣ 2 ^ 32 := by cases w <;> decide

theorem Width.mod_le (w : Width) : w.mod ≤ 2 ^ 32 := by cases w <;> decide

theorem trunc_lt (w : Width) (v : Nat) : trunc w v < w.mod := Nat.mod_lt _ (Width.mod_pos w)

@[simp] theorem trunc_trunc (w : Width) (v : Nat) : trunc w (trunc w v) = trunc w v := Nat.mod_mod _ _

theorem trunc_of_lt {w : Width} {v : Nat} (h : v < w.mod) : trunc w v = v := Nat.mod_eq_of_lt h

/-! ### Registers -/

theorem State.regRead_lt (s : State) (i : Reg) (w : Width) : s.regRead i w < w.mod := Nat.mod_lt _ (Width.mod_pos w)

/-- The 32-bit value that a register write leaves, as a number (R23). -/
theorem State.regWrite_toNat (s : State) (i : Reg) (w : Width) (v : Nat) :
    ((s.regWrite i w v).reg i).toNat = (s.reg i).toNat / w.mod * w.mod + trunc w v := by
  have hx := (s.reg i).isLt
  have ht := trunc_lt w v
  simp only [State.regWrite, State.setReg_reg_self, BitVec.toNat_ofNat]
  apply Nat.mod_eq_of_lt
  cases w <;> simp only [Width.mod, Width.bytes] at * <;> omega

/-- Everything a register write does (R23). -/
theorem State.regWrite_wroteReg (s : State) (i : Reg) (w : Width) (v : Nat) :
    WroteReg i w (trunc w v) s (s.regWrite i w v) := by
  have ht := trunc_lt w v
  refine ⟨?_, ?_, fun j hj => State.setReg_reg_ne s _ hj⟩
  · rw [State.regRead, State.regWrite_toNat, Nat.mul_add_mod_self_right, Nat.mod_eq_of_lt ht]
  · rw [State.regWrite_toNat, Nat.add_comm, Nat.add_mul_div_right _ _ (Width.mod_pos w), Nat.div_eq_of_lt ht,
      Nat.zero_add]

/-! ### Memory -/

theorem State.memRead_ok {s : State} {addr : Word} {n v : Nat} (h : s.memRead addr n = .ok v) :
    s.memAdmit addr n = true ∧ v = leNat (s.mem.getBytes addr.toNat n) ∧ v < 2 ^ (8 * n) := by
  unfold State.memRead at h
  split at h
  · next ha =>
    have hv : leNat (s.mem.getBytes addr.toNat n) = v := by simpa using h
    refine ⟨ha, hv.symm, ?_⟩
    have := leNat_lt (s.mem.getBytes addr.toNat n)
    simpa [hv] using this
  · simp at h

theorem State.memRead_error {s : State} {addr : Word} {n : Nat} {f : Fault} (h : s.memRead addr n = .error f) :
    s.memAdmit addr n = false ∧ f = .memoryFault addr n .read := by
  unfold State.memRead at h
  split at h
  · simp at h
  · next ha => exact ⟨by simpa using ha, by simpa using h.symm⟩

theorem State.memRead_admitted {s : State} {addr : Word} {n : Nat} (h : s.memAdmit addr n = true) :
    s.memRead addr n = .ok (leNat (s.mem.getBytes addr.toNat n)) := by
  simp [State.memRead, h]

theorem State.memRead_refused {s : State} {addr : Word} {n : Nat} (h : s.memAdmit addr n = false) :
    s.memRead addr n = .error (.memoryFault addr n .read) := by
  simp [State.memRead, h]

/-- Everything a memory write that answers does to the fields of the state (R52). -/
theorem State.memWrite_ok {s t : State} {addr : Word} {n v : Nat} (h : s.memWrite addr n v = .ok t) :
    s.memAdmit addr n = true ∧ t = { s with mem := s.mem.setBytes addr.toNat (leBytes n v) } := by
  unfold State.memWrite at h
  split at h
  · next ha => exact ⟨ha, by simpa using h.symm⟩
  · simp at h

theorem State.memWrite_error {s : State} {addr : Word} {n v : Nat} {f : Fault} (h : s.memWrite addr n v = .error f) :
    s.memAdmit addr n = false ∧ f = .memoryFault addr n .write := by
  unfold State.memWrite at h
  split at h
  · simp at h
  · next ha => exact ⟨by simpa using ha, by simpa using h.symm⟩

theorem State.memWrite_admitted {s : State} {addr : Word} {n : Nat} (v : Nat) (h : s.memAdmit addr n = true) :
    s.memWrite addr n v = .ok { s with mem := s.mem.setBytes addr.toNat (leBytes n v) } := by
  simp [State.memWrite, h]

theorem State.memWrite_refused {s : State} {addr : Word} {n : Nat} (v : Nat) (h : s.memAdmit addr n = false) :
    s.memWrite addr n v = .error (.memoryFault addr n .write) := by
  simp [State.memWrite, h]

/-- A memory write that answers, on a memory in its canonical form: the bytes written read back, no other byte changes,
and the canonical form is kept (R52). -/
theorem State.memWrite_wroteMem {s t : State} {addr : Word} {n v : Nat} (hwf : s.mem.wf = true)
    (h : s.memWrite addr n v = .ok t) : WroteMem addr n (v % 2 ^ (8 * n)) s t ∧ t.mem.wf = true := by
  obtain ⟨ha, rfl⟩ := State.memWrite_ok h
  refine ⟨⟨?_, fun a hout => ?_⟩, Memory.setBytes_wf _ _ _ hwf⟩
  · have hread := Memory.getBytes_setBytes s.mem addr.toNat (leBytes n v) hwf
    rw [leBytes_length] at hread
    have hadm : State.memAdmit { s with mem := s.mem.setBytes addr.toNat (leBytes n v) } addr n = true := ha
    rw [State.memRead_admitted hadm, hread, leNat_leBytes]
  · exact Memory.get_setBytes_outside s.mem addr.toNat a (leBytes n v) hwf (by simpa using hout)

/-- A memory write that answers keeps the invariant. -/
theorem State.memWrite_inv {s t : State} {addr : Word} {n v : Nat} (hinv : s.Inv) (h : s.memWrite addr n v = .ok t) :
    t.Inv := by
  obtain ⟨hwf, hlt, hsize, he⟩ := hinv
  obtain ⟨ha, rfl⟩ := State.memWrite_ok h
  refine ⟨Memory.setBytes_wf _ _ _ hwf, fun c hc => ?_, hsize, he⟩
  have hadm : addr.toNat + n ≤ s.memSize := by simpa [State.memAdmit] using ha
  rcases Memory.mem_setBytes hc with hc | hc
  · have := hc.2
    simp only [leBytes_length] at this
    show c.1 < s.memSize
    omega
  · exact hlt c hc

/-! ### Operand descriptors -/

/-- A read through a descriptor that answers gives a pattern of the descriptor's width, and the access is admitted. -/
theorem State.readRM_ok {s : State} {rm : RM} {v : Nat} (h : s.readRM rm = .ok v) :
    s.admits rm = true ∧ v < rm.width.mod := by
  cases rm with
  | reg i w =>
    have hv : s.regRead i w = v := by simpa [State.readRM] using h
    exact ⟨rfl, hv ▸ s.regRead_lt i w⟩
  | mem addr w =>
    obtain ⟨ha, -, hlt⟩ := State.memRead_ok h
    exact ⟨ha, hlt⟩

theorem State.readRM_error {s : State} {rm : RM} {f : Fault} (h : s.readRM rm = .error f) :
    s.admits rm = false ∧ ∃ addr w, rm = .mem addr w ∧ f = .memoryFault addr w.bytes .read := by
  cases rm with
  | reg i w => simp [State.readRM] at h
  | mem addr w =>
    obtain ⟨ha, hf⟩ := State.memRead_error h
    exact ⟨ha, addr, w, rfl, hf⟩

theorem State.readRM_admitted {s : State} {rm : RM} (h : s.admits rm = true) : ∃ v, s.readRM rm = .ok v := by
  cases rm with
  | reg i w => exact ⟨_, rfl⟩
  | mem addr w => exact ⟨_, State.memRead_admitted h⟩

theorem State.writeRM_error {s : State} {rm : RM} {v : Nat} {f : Fault} (h : s.writeRM rm v = .error f) :
    s.admits rm = false ∧ ∃ addr w, rm = .mem addr w ∧ f = .memoryFault addr w.bytes .write := by
  cases rm with
  | reg i w => simp [State.writeRM] at h
  | mem addr w =>
    obtain ⟨ha, hf⟩ := State.memWrite_error h
    exact ⟨ha, addr, w, rfl, hf⟩

theorem State.writeRM_admitted {s : State} {rm : RM} (v : Nat) (h : s.admits rm = true) :
    ∃ t, s.writeRM rm v = .ok t := by
  cases rm with
  | reg i w => exact ⟨_, rfl⟩
  | mem addr w => exact ⟨_, State.memWrite_admitted v h⟩

/-- A write through a descriptor that answers: the access is admitted, and flags, ip, launch parameters and engine are
as before. -/
theorem State.writeRM_fields {s t : State} {rm : RM} {v : Nat} (h : s.writeRM rm v = .ok t) :
    s.admits rm = true ∧ t.flags = s.flags ∧ t.ip = s.ip ∧ SameLaunch s t := by
  cases rm with
  | reg i w =>
    have ht : s.regWrite i w v = t := by simpa [State.writeRM] using h
    subst ht
    exact ⟨rfl, rfl, rfl, rfl, rfl, rfl⟩
  | mem addr w =>
    obtain ⟨ha, rfl⟩ := State.memWrite_ok h
    exact ⟨ha, rfl, rfl, rfl, rfl, rfl⟩

/-- A write through a descriptor that answers writes exactly the operand (R23, R52). -/
theorem State.writeRM_wroteRM {s t : State} {rm : RM} {v : Nat} (hwf : s.mem.wf = true) (h : s.writeRM rm v = .ok t) :
    WroteRM rm (trunc rm.width v) s t := by
  cases rm with
  | reg i w =>
    have ht : s.regWrite i w v = t := by simpa [State.writeRM] using h
    subst ht
    exact ⟨s.regWrite_wroteReg i w v, fun a => rfl⟩
  | mem addr w =>
    refine ⟨(State.memWrite_wroteMem hwf h).1, fun i => ?_⟩
    obtain ⟨-, rfl⟩ := State.memWrite_ok h
    rfl

/-- A write through a descriptor that answers keeps the invariant. -/
theorem State.writeRM_inv {s t : State} {rm : RM} {v : Nat} (hinv : s.Inv) (h : s.writeRM rm v = .ok t) : t.Inv := by
  cases rm with
  | reg i w =>
    have ht : s.regWrite i w v = t := by simpa [State.writeRM] using h
    subst ht
    exact hinv
  | mem addr w => exact State.memWrite_inv hinv h

end Sys2Proof.Machine
end

