-- ==== Sys2Proof/Laws/Forms.lean ====
section
/-! SUPPORT. One lemma for each handler form: everything a form that answers does. -/

namespace Sys2Proof.Machine

/-- What every form but JMP keeps: `ip`, the launch parameters and the engine; the invariant stays. -/
def Keeps (s t : State) : Prop := t.ip = s.ip ∧ SameLaunch s t ∧ (s.Inv → t.Inv)

theorem Keeps.refl_flags (s : State) (f : Flags) : Keeps s (s.setFlags f) :=
  ⟨rfl, ⟨rfl, rfl, rfl⟩, fun h => h⟩

theorem State.regWrite_keeps (s : State) (i : Reg) (w : Width) (v : Nat) : Keeps s (s.regWrite i w v) :=
  ⟨rfl, ⟨rfl, rfl, rfl⟩, fun h => h⟩

theorem State.writeRM_keeps {s t : State} {rm : RM} {v : Nat} (h : s.writeRM rm v = .ok t) : Keeps s t := by
  obtain ⟨-, -, hip, hl⟩ := State.writeRM_fields h
  exact ⟨hip, hl, fun hinv => State.writeRM_inv hinv h⟩

theorem Keeps.setFlags {s t : State} (h : Keeps s t) (f : Flags) : Keeps s (t.setFlags f) := h

theorem WroteRM.setFlags {rm : RM} {v : Nat} {s t : State} (h : WroteRM rm v s t) (f : Flags) :
    WroteRM rm v s (t.setFlags f) := by
  cases rm <;> exact h

/-! ### The two commits -/

/-- CMP and TEST are the operations without a destination, and no other is (R73, R90). -/
theorem AluOp.writesBack_false_iff {op : AluOp} :
    op.writesBack = false ↔ op = .arith .cmp ∨ op = .bitw .test := by
  rcases op with ⟨⟨⟩⟩ | ⟨⟨⟩⟩ <;> simp [AluOp.writesBack]

/-- A commit to an operand descriptor that answers: the flags of the operation; the masked result in the operand where
the operation writes back, registers and memory as before where it does not. -/
theorem aluCommitRM_ok {op : AluOp} {rm : RM} {a b : Nat} {s t : State} (h : aluCommitRM op rm a b s = .ok t) :
    t.flags = aluFlags op rm.width (aluTmp op a b rm.width) s.flags ∧ Keeps s t ∧
    (op.writesBack = true → s.mem.wf = true → WroteRM rm (trunc rm.width (aluTmp op a b rm.width)) s t) ∧
    (op.writesBack = false → SameRegs s t ∧ SameMemory s t) := by
  unfold aluCommitRM at h
  cases hw : op.writesBack with
  | true =>
    simp only [hw, if_true] at h
    cases hs : s.writeRM rm (trunc rm.width (aluTmp op a b rm.width)) with
    | error f => simp [hs, bind, Except.bind] at h
    | ok u =>
      simp only [hs, bind, Except.bind, Except.ok.injEq] at h
      subst h
      refine ⟨rfl, (State.writeRM_keeps hs).setFlags _, fun _ hwf => ?_, fun hc => by simp at hc⟩
      have := State.writeRM_wroteRM hwf hs
      rw [trunc_trunc] at this
      exact this.setFlags _
  | false =>
    simp only [hw, bind, Except.bind, Bool.false_eq_true, if_false, Except.ok.injEq] at h
    subst h
    exact ⟨rfl, Keeps.refl_flags s _, fun hc => by simp at hc, fun _ => ⟨fun _ => rfl, fun _ => rfl⟩⟩

/-- A commit to an operand descriptor faults only where the write is not admitted. -/
theorem aluCommitRM_admitted (op : AluOp) {rm : RM} (a b : Nat) {s : State} (h : s.admits rm = true) :
    ∃ t, aluCommitRM op rm a b s = .ok t := by
  unfold aluCommitRM
  cases hw : op.writesBack with
  | true =>
    obtain ⟨u, hu⟩ := State.writeRM_admitted (trunc rm.width (aluTmp op a b rm.width)) h
    exact ⟨_, by simp [hu, bind, Except.bind]; rfl⟩
  | false => exact ⟨_, by simp [bind, Except.bind]; rfl⟩

/-- The commit to a register. -/
theorem aluCommitReg_spec (op : AluOp) (w : Width) (i : Reg) (a b : Nat) (s : State) :
    (aluCommitReg op w i a b s).flags = aluFlags op w (aluTmp op a b w) s.flags ∧
    Keeps s (aluCommitReg op w i a b s) ∧
    (op.writesBack = true → WroteRM (.reg i w) (trunc w (aluTmp op a b w)) s (aluCommitReg op w i a b s)) ∧
    (op.writesBack = false → SameRegs s (aluCommitReg op w i a b s) ∧ SameMemory s (aluCommitReg op w i a b s)) := by
  unfold aluCommitReg
  cases hw : op.writesBack with
  | true =>
    refine ⟨rfl, (State.regWrite_keeps s i w _).setFlags _, fun _ => ?_, fun hc => by simp at hc⟩
    have := s.regWrite_wroteReg i w (trunc w (aluTmp op a b w))
    rw [trunc_trunc] at this
    exact ⟨this, fun _ => rfl⟩
  | false =>
    exact ⟨rfl, Keeps.refl_flags s _, fun hc => by simp at hc, fun _ => ⟨fun _ => rfl, fun _ => rfl⟩⟩

/-! ### The forms as reads followed by a commit -/

theorem formAluRmImm_eq {op : AluOp} {iw : Width} {rm : RM} {imm a : Nat} {s : State} (h : s.readRM rm = .ok a) :
    formAluRmImm op iw rm imm s = aluCommitRM op rm a (sext iw rm.width imm) s := by
  simp [formAluRmImm, h, bind, Except.bind]

theorem formAluRmR_eq {op : AluOp} {rm : RM} {r : Reg} {a : Nat} {s : State} (h : s.readRM rm = .ok a) :
    formAluRmR op rm r s = aluCommitRM op rm a (s.regRead r rm.width) s := by
  simp [formAluRmR, h, bind, Except.bind]

theorem formAluRRm_eq {op : AluOp} {rm : RM} {r : Reg} {b : Nat} {s : State} (h : s.readRM rm = .ok b) :
    formAluRRm op r rm s = .ok (aluCommitReg op rm.width r (s.regRead r rm.width) b s) := by
  simp [formAluRRm, h, bind, Except.bind]

/-- The unary form on a readable operand: it answers, with the masked result in the operand. -/
theorem formUnaryRm_spec {op : UnOp} {rm : RM} {a : Nat} {s : State} (h : s.readRM rm = .ok a) :
    ∃ t, formUnaryRm op rm s = .ok t ∧ t.flags = unaryFlags op a s.flags ∧ Keeps s t ∧
      (s.mem.wf = true → WroteRM rm (trunc rm.width (unaryTmp op a rm.width)) s t) := by
  obtain ⟨u, hu⟩ := State.writeRM_admitted (trunc rm.width (unaryTmp op a rm.width)) (State.readRM_ok h).1
  refine ⟨u.setFlags (unaryFlags op a s.flags), by simp [formUnaryRm, h, hu, bind, Except.bind], rfl,
    (State.writeRM_keeps hu).setFlags _, fun hwf => ?_⟩
  have := State.writeRM_wroteRM hwf hu
  rw [trunc_trunc] at this
  exact this.setFlags _

/-- A move into an admitted operand: it answers, with the value in the operand and the flags as before. -/
theorem State.writeRM_spec {rm : RM} {v : Nat} {s : State} (h : s.admits rm = true) (hv : v < rm.width.mod) :
    ∃ t, s.writeRM rm v = .ok t ∧ t.flags = s.flags ∧ Keeps s t ∧ (s.mem.wf = true → WroteRM rm v s t) := by
  obtain ⟨u, hu⟩ := State.writeRM_admitted v h
  refine ⟨u, hu, (State.writeRM_fields hu).2.1, State.writeRM_keeps hu, fun hwf => ?_⟩
  have := State.writeRM_wroteRM hwf hu
  rwa [trunc_of_lt hv] at this

/-- A move into a register. -/
theorem State.regWrite_spec (s : State) (i : Reg) (w : Width) {v : Nat} (hv : v < w.mod) :
    (s.regWrite i w v).flags = s.flags ∧ Keeps s (s.regWrite i w v) ∧ WroteRM (.reg i w) v s (s.regWrite i w v) := by
  refine ⟨rfl, State.regWrite_keeps s i w v, ?_, fun _ => rfl⟩
  have := s.regWrite_wroteReg i w v
  rwa [trunc_of_lt hv] at this

@[simp] theorem resolve_width (am : Addressing) (w : Width) (s : State) : (resolve am w s).width = w := by
  cases am <;> rfl

end Sys2Proof.Machine
end

