-- ==== Sys2Proof/Laws/PerInstr.lean ====
section
/-! SUPPORT. The family of statements about every instruction as syntax: its encoding has at least one byte and at most
eleven (spec/30_encoding.md R83). One lemma for each constructor. -/

namespace Sys2Proof.Laws.Encoding

/-- An instruction's encoding is one to eleven bytes long (R83). -/
def Statement (i : Instr) : Prop := 1 ≤ (encode i).length ∧ (encode i).length ≤ Config.longestInstruction

/-! ### Lengths of the parts -/

theorem p66Bytes_length (p : Bool) : (p66Bytes p).length ≤ 1 := by cases p <;> decide

theorem bytes66_length (v : VSize) : v.bytes66.length ≤ 1 := by cases v <;> decide

/-- Prefix and immediate of the v-size together: at most four bytes (R84). -/
theorem imm_length (i : VImm) : i.size.bytes66.length + i.bytes.length ≤ 4 := by
  cases i <;> simp [VImm.size, VSize.bytes66, VSize.p66, p66Bytes, VImm.bytes]

theorem disp_length (d : Disp) : d.bytes.length ≤ 4 := by cases d <;> simp [Disp.bytes]

/-- Addressing bytes: one to six (R76 to R78). -/
theorem addressing_length (am : Addressing) (r : Reg) :
    1 ≤ (encodeAddressing am r).length ∧ (encodeAddressing am r).length ≤ 6 := by
  cases am with
  | reg i => simp [encodeAddressing]
  | base b d => have := disp_length d; simp [encodeAddressing]; omega
  | abs d => simp [encodeAddressing]
  | sib sc ix b d => have := disp_length d; simp [encodeAddressing]; omega
  | sibAbs sc ix d => simp [encodeAddressing]

/-! ### One lemma for each operand shape -/

theorem of_addressing {i : Instr} {pre : List Byte} {op : Byte} {am : Addressing} {r : Reg}
    (h : encode i = pre ++ op :: encodeAddressing am r) (hp : pre.length ≤ 1) : Statement i := by
  have := addressing_length am r
  simp only [Statement, h, List.length_append, List.length_cons, Config.longestInstruction]
  omega

theorem of_addressing_imm8 {i : Instr} {pre : List Byte} {op : Byte} {am : Addressing} {r : Reg} {imm : BitVec 8}
    (h : encode i = pre ++ op :: (encodeAddressing am r ++ [imm])) (hp : pre.length ≤ 1) : Statement i := by
  have := addressing_length am r
  simp only [Statement, h, List.length_append, List.length_cons, List.length_nil, Config.longestInstruction]
  omega

theorem of_addressing_imm {i : Instr} {op : Byte} {am : Addressing} {r : Reg} {imm : VImm}
    (h : encode i = imm.size.bytes66 ++ op :: (encodeAddressing am r ++ imm.bytes)) : Statement i := by
  have := addressing_length am r
  have := imm_length imm
  simp only [Statement, h, List.length_append, List.length_cons, Config.longestInstruction]
  omega

theorem of_imm8 {i : Instr} {pre : List Byte} {op : Byte} {imm : BitVec 8} (h : encode i = pre ++ [op, imm])
    (hp : pre.length ≤ 1) : Statement i := by
  simp only [Statement, h, List.length_append, List.length_cons, List.length_nil, Config.longestInstruction]
  omega

theorem of_imm {i : Instr} {op : Byte} {imm : VImm} (h : encode i = imm.size.bytes66 ++ op :: imm.bytes) :
    Statement i := by
  have := imm_length imm
  simp only [Statement, h, List.length_append, List.length_cons, Config.longestInstruction]
  omega

theorem of_moffs {i : Instr} {pre : List Byte} {op : Byte} {addr : BitVec 32}
    (h : encode i = pre ++ op :: leBytes Config.addrWidth addr.toNat) (hp : pre.length ≤ 1) : Statement i := by
  simp only [Statement, h, List.length_append, List.length_cons, leBytes_length, Config.longestInstruction,
    Config.addrWidth]
  omega

/-! ### One lemma for each constructor -/

theorem addRmR8 (p66 : Bool) (am : Addressing) (r : Reg) : Statement (.addRmR8 p66 am r) :=
  of_addressing rfl (p66Bytes_length _)
theorem addRmRv (v : VSize) (am : Addressing) (r : Reg) : Statement (.addRmRv v am r) :=
  of_addressing rfl (bytes66_length _)
theorem addRRm8 (p66 : Bool) (r : Reg) (am : Addressing) : Statement (.addRRm8 p66 r am) :=
  of_addressing rfl (p66Bytes_length _)
theorem addRRmv (v : VSize) (r : Reg) (am : Addressing) : Statement (.addRRmv v r am) :=
  of_addressing rfl (bytes66_length _)
theorem addAccImm8 (p66 : Bool) (imm : BitVec 8) : Statement (.addAccImm8 p66 imm) := of_imm8 rfl (p66Bytes_length _)
theorem addAccImmv (imm : VImm) : Statement (.addAccImmv imm) := of_imm rfl
theorem addRmImm8 (p66 : Bool) (am : Addressing) (imm : BitVec 8) : Statement (.addRmImm8 p66 am imm) :=
  of_addressing_imm8 rfl (p66Bytes_length _)
theorem addRmImmv (am : Addressing) (imm : VImm) : Statement (.addRmImmv am imm) := of_addressing_imm rfl
theorem addRmSImm8 (v : VSize) (am : Addressing) (imm : BitVec 8) : Statement (.addRmSImm8 v am imm) :=
  of_addressing_imm8 rfl (bytes66_length _)
theorem orRmR8 (p66 : Bool) (am : Addressing) (r : Reg) : Statement (.orRmR8 p66 am r) :=
  of_addressing rfl (p66Bytes_length _)
theorem orRmRv (v : VSize) (am : Addressing) (r : Reg) : Statement (.orRmRv v am r) :=
  of_addressing rfl (bytes66_length _)
theorem orRRm8 (p66 : Bool) (r : Reg) (am : Addressing) : Statement (.orRRm8 p66 r am) :=
  of_addressing rfl (p66Bytes_length _)
theorem orRRmv (v : VSize) (r : Reg) (am : Addressing) : Statement (.orRRmv v r am) :=
  of_addressing rfl (bytes66_length _)
theorem orAccImm8 (p66 : Bool) (imm : BitVec 8) : Statement (.orAccImm8 p66 imm) := of_imm8 rfl (p66Bytes_length _)
theorem orAccImmv (imm : VImm) : Statement (.orAccImmv imm) := of_imm rfl
theorem orRmImm8 (p66 : Bool) (am : Addressing) (imm : BitVec 8) : Statement (.orRmImm8 p66 am imm) :=
  of_addressing_imm8 rfl (p66Bytes_length _)
theorem orRmImmv (am : Addressing) (imm : VImm) : Statement (.orRmImmv am imm) := of_addressing_imm rfl
theorem orRmSImm8 (v : VSize) (am : Addressing) (imm : BitVec 8) : Statement (.orRmSImm8 v am imm) :=
  of_addressing_imm8 rfl (bytes66_length _)
theorem andRmR8 (p66 : Bool) (am : Addressing) (r : Reg) : Statement (.andRmR8 p66 am r) :=
  of_addressing rfl (p66Bytes_length _)
theorem andRmRv (v : VSize) (am : Addressing) (r : Reg) : Statement (.andRmRv v am r) :=
  of_addressing rfl (bytes66_length _)
theorem andRRm8 (p66 : Bool) (r : Reg) (am : Addressing) : Statement (.andRRm8 p66 r am) :=
  of_addressing rfl (p66Bytes_length _)
theorem andRRmv (v : VSize) (r : Reg) (am : Addressing) : Statement (.andRRmv v r am) :=
  of_addressing rfl (bytes66_length _)
theorem andAccImm8 (p66 : Bool) (imm : BitVec 8) : Statement (.andAccImm8 p66 imm) := of_imm8 rfl (p66Bytes_length _)
theorem andAccImmv (imm : VImm) : Statement (.andAccImmv imm) := of_imm rfl
theorem andRmImm8 (p66 : Bool) (am : Addressing) (imm : BitVec 8) : Statement (.andRmImm8 p66 am imm) :=
  of_addressing_imm8 rfl (p66Bytes_length _)
theorem andRmImmv (am : Addressing) (imm : VImm) : Statement (.andRmImmv am imm) := of_addressing_imm rfl
theorem andRmSImm8 (v : VSize) (am : Addressing) (imm : BitVec 8) : Statement (.andRmSImm8 v am imm) :=
  of_addressing_imm8 rfl (bytes66_length _)
theorem subRmR8 (p66 : Bool) (am : Addressing) (r : Reg) : Statement (.subRmR8 p66 am r) :=
  of_addressing rfl (p66Bytes_length _)
theorem subRmRv (v : VSize) (am : Addressing) (r : Reg) : Statement (.subRmRv v am r) :=
  of_addressing rfl (bytes66_length _)
theorem subRRm8 (p66 : Bool) (r : Reg) (am : Addressing) : Statement (.subRRm8 p66 r am) :=
  of_addressing rfl (p66Bytes_length _)
theorem subRRmv (v : VSize) (r : Reg) (am : Addressing) : Statement (.subRRmv v r am) :=
  of_addressing rfl (bytes66_length _)
theorem subAccImm8 (p66 : Bool) (imm : BitVec 8) : Statement (.subAccImm8 p66 imm) := of_imm8 rfl (p66Bytes_length _)
theorem subAccImmv (imm : VImm) : Statement (.subAccImmv imm) := of_imm rfl
theorem subRmImm8 (p66 : Bool) (am : Addressing) (imm : BitVec 8) : Statement (.subRmImm8 p66 am imm) :=
  of_addressing_imm8 rfl (p66Bytes_length _)
theorem subRmImmv (am : Addressing) (imm : VImm) : Statement (.subRmImmv am imm) := of_addressing_imm rfl
theorem subRmSImm8 (v : VSize) (am : Addressing) (imm : BitVec 8) : Statement (.subRmSImm8 v am imm) :=
  of_addressing_imm8 rfl (bytes66_length _)
theorem xorRmR8 (p66 : Bool) (am : Addressing) (r : Reg) : Statement (.xorRmR8 p66 am r) :=
  of_addressing rfl (p66Bytes_length _)
theorem xorRmRv (v : VSize) (am : Addressing) (r : Reg) : Statement (.xorRmRv v am r) :=
  of_addressing rfl (bytes66_length _)
theorem xorRRm8 (p66 : Bool) (r : Reg) (am : Addressing) : Statement (.xorRRm8 p66 r am) :=
  of_addressing rfl (p66Bytes_length _)
theorem xorRRmv (v : VSize) (r : Reg) (am : Addressing) : Statement (.xorRRmv v r am) :=
  of_addressing rfl (bytes66_length _)
theorem xorAccImm8 (p66 : Bool) (imm : BitVec 8) : Statement (.xorAccImm8 p66 imm) := of_imm8 rfl (p66Bytes_length _)
theorem xorAccImmv (imm : VImm) : Statement (.xorAccImmv imm) := of_imm rfl
theorem xorRmImm8 (p66 : Bool) (am : Addressing) (imm : BitVec 8) : Statement (.xorRmImm8 p66 am imm) :=
  of_addressing_imm8 rfl (p66Bytes_length _)
theorem xorRmImmv (am : Addressing) (imm : VImm) : Statement (.xorRmImmv am imm) := of_addressing_imm rfl
theorem xorRmSImm8 (v : VSize) (am : Addressing) (imm : BitVec 8) : Statement (.xorRmSImm8 v am imm) :=
  of_addressing_imm8 rfl (bytes66_length _)
theorem cmpRmR8 (p66 : Bool) (am : Addressing) (r : Reg) : Statement (.cmpRmR8 p66 am r) :=
  of_addressing rfl (p66Bytes_length _)
theorem cmpRmRv (v : VSize) (am : Addressing) (r : Reg) : Statement (.cmpRmRv v am r) :=
  of_addressing rfl (bytes66_length _)
theorem cmpRRm8 (p66 : Bool) (r : Reg) (am : Addressing) : Statement (.cmpRRm8 p66 r am) :=
  of_addressing rfl (p66Bytes_length _)
theorem cmpRRmv (v : VSize) (r : Reg) (am : Addressing) : Statement (.cmpRRmv v r am) :=
  of_addressing rfl (bytes66_length _)
theorem cmpAccImm8 (p66 : Bool) (imm : BitVec 8) : Statement (.cmpAccImm8 p66 imm) := of_imm8 rfl (p66Bytes_length _)
theorem cmpAccImmv (imm : VImm) : Statement (.cmpAccImmv imm) := of_imm rfl
theorem cmpRmImm8 (p66 : Bool) (am : Addressing) (imm : BitVec 8) : Statement (.cmpRmImm8 p66 am imm) :=
  of_addressing_imm8 rfl (p66Bytes_length _)
theorem cmpRmImmv (am : Addressing) (imm : VImm) : Statement (.cmpRmImmv am imm) := of_addressing_imm rfl
theorem cmpRmSImm8 (v : VSize) (am : Addressing) (imm : BitVec 8) : Statement (.cmpRmSImm8 v am imm) :=
  of_addressing_imm8 rfl (bytes66_length _)
theorem testRmR8 (p66 : Bool) (am : Addressing) (r : Reg) : Statement (.testRmR8 p66 am r) :=
  of_addressing rfl (p66Bytes_length _)
theorem testRmRv (v : VSize) (am : Addressing) (r : Reg) : Statement (.testRmRv v am r) :=
  of_addressing rfl (bytes66_length _)
theorem testAccImm8 (p66 : Bool) (imm : BitVec 8) : Statement (.testAccImm8 p66 imm) := of_imm8 rfl (p66Bytes_length _)
theorem testAccImmv (imm : VImm) : Statement (.testAccImmv imm) := of_imm rfl
theorem testRmImm8 (p66 : Bool) (am : Addressing) (imm : BitVec 8) : Statement (.testRmImm8 p66 am imm) :=
  of_addressing_imm8 rfl (p66Bytes_length _)
theorem testRmImmv (am : Addressing) (imm : VImm) : Statement (.testRmImmv am imm) := of_addressing_imm rfl
theorem notRm8 (p66 : Bool) (am : Addressing) : Statement (.notRm8 p66 am) := of_addressing rfl (p66Bytes_length _)
theorem notRmv (v : VSize) (am : Addressing) : Statement (.notRmv v am) := of_addressing rfl (bytes66_length _)
theorem negRm8 (p66 : Bool) (am : Addressing) : Statement (.negRm8 p66 am) := of_addressing rfl (p66Bytes_length _)
theorem negRmv (v : VSize) (am : Addressing) : Statement (.negRmv v am) := of_addressing rfl (bytes66_length _)
theorem movRmR8 (p66 : Bool) (am : Addressing) (r : Reg) : Statement (.movRmR8 p66 am r) :=
  of_addressing rfl (p66Bytes_length _)
theorem movRmRv (v : VSize) (am : Addressing) (r : Reg) : Statement (.movRmRv v am r) :=
  of_addressing rfl (bytes66_length _)
theorem movRRm8 (p66 : Bool) (r : Reg) (am : Addressing) : Statement (.movRRm8 p66 r am) :=
  of_addressing rfl (p66Bytes_length _)
theorem movRRmv (v : VSize) (r : Reg) (am : Addressing) : Statement (.movRRmv v r am) :=
  of_addressing rfl (bytes66_length _)
theorem movAccMoffs8 (p66 : Bool) (addr : BitVec 32) : Statement (.movAccMoffs8 p66 addr) :=
  of_moffs rfl (p66Bytes_length _)
theorem movAccMoffsv (v : VSize) (addr : BitVec 32) : Statement (.movAccMoffsv v addr) :=
  of_moffs rfl (bytes66_length _)
theorem movMoffsAcc8 (p66 : Bool) (addr : BitVec 32) : Statement (.movMoffsAcc8 p66 addr) :=
  of_moffs rfl (p66Bytes_length _)
theorem movMoffsAccv (v : VSize) (addr : BitVec 32) : Statement (.movMoffsAccv v addr) :=
  of_moffs rfl (bytes66_length _)
theorem movRImm8 (p66 : Bool) (r : Reg) (imm : BitVec 8) : Statement (.movRImm8 p66 r imm) :=
  of_imm8 rfl (p66Bytes_length _)
theorem movRImmv (r : Reg) (imm : VImm) : Statement (.movRImmv r imm) := of_imm rfl
theorem movRmImm8 (p66 : Bool) (am : Addressing) (imm : BitVec 8) : Statement (.movRmImm8 p66 am imm) :=
  of_addressing_imm8 rfl (p66Bytes_length _)
theorem movRmImmv (am : Addressing) (imm : VImm) : Statement (.movRmImmv am imm) := of_addressing_imm rfl
theorem jmpRelv (disp : VImm) : Statement (.jmpRelv disp) := of_imm rfl
theorem jmpRel8 (p66 : Bool) (disp : BitVec 8) : Statement (.jmpRel8 p66 disp) := of_imm8 rfl (p66Bytes_length _)

end Sys2Proof.Laws.Encoding
end

