-- ==== Sys2Proof/Laws/Protocol.lean ====
section
/-! SUPPORT. One lemma for each part of a handler invocation (spec/41_handler_protocol.md R140): what it has done where it
answers, and why it has not where it does not. -/

namespace Sys2Proof.Machine

/-! ### Chained computations -/

theorem bind_ok {ε α β : Type} {x : Except ε α} {f : α → Except ε β} {b : β} (h : (x >>= f) = .ok b) :
    ∃ a, x = .ok a ∧ f a = .ok b := by
  cases x with
  | error e => cases h
  | ok a => exact ⟨a, rfl, h⟩

theorem bind_error {ε α β : Type} {x : Except ε α} {f : α → Except ε β} {e : ε} (h : (x >>= f) = .error e) :
    x = .error e ∨ ∃ a, x = .ok a ∧ f a = .error e := by
  cases x with
  | error e' => exact .inl (by cases h; rfl)
  | ok a => exact .inr ⟨a, rfl, h⟩

theorem outcome_next {r : Except Fault State} {t : State} (h : outcome r = .next t) : r = .ok t := by
  cases r with
  | ok u => cases h; rfl
  | error f => cases h

theorem outcome_fault {r : Except Fault State} {f : Fault} (h : outcome r = .fault f) : r = .error f := by
  cases r with
  | ok u => cases h
  | error f => cases h; rfl

/-! ### Fetching (R139) -/

theorem State.fetchImm_ok {s t : State} {n v : Nat} (h : s.fetchImm n = .ok (v, t)) :
    s.memRead s.ip n = .ok v ∧ t = s.advance n := by
  obtain ⟨a, ha, hb⟩ := bind_ok h
  cases hb
  exact ⟨ha, rfl⟩

theorem State.fetchImm_error {s : State} {n : Nat} {f : Fault} (h : s.fetchImm n = .error f) :
    s.memAdmit s.ip n = false ∧ f = .memoryFault s.ip n .read := by
  rcases bind_error h with h | ⟨a, -, h⟩
  · exact State.memRead_error h
  · cases h

/-- S2: the descriptors come from the decoder and `ip` is past what it consumed; a form without addressing bytes skips
it. -/
theorem Handler.decodeStep_ok {dec : AddrDecoder} {h : Handler} {s t : State} {rm : RM} {r : RField}
    (hd : h.decodeStep dec s = .ok (rm, r, t)) :
    (h.addressed = false ∧ t = s ∧ rm = .reg 0 h.width ∧ r = ⟨0, h.width⟩) ∨
    (h.addressed = true ∧ ∃ n, dec h.width h.width s = .ok (rm, r, n) ∧ t = s.advance n) := by
  unfold Handler.decodeStep at hd
  split at hd
  · next ha =>
    obtain ⟨⟨rm', r', n⟩, h1, h2⟩ := bind_ok hd
    cases h2
    exact .inr ⟨ha, n, h1, rfl⟩
  · next ha =>
    cases hd
    exact .inl ⟨by simpa using ha, rfl, rfl, rfl⟩

/-- S4: `ip` is past the immediate, and the value is the one at `ip`. -/
theorem Handler.fetchStep_ok {h : Handler} {s t : State} {imm : Nat} (hf : h.fetchStep s = .ok (imm, t)) :
    t = s.advance (h.immBytes.getD 0) ∧ (∀ n, h.immBytes = some n → s.memRead s.ip n = .ok imm) ∧
    (h.immBytes = none → imm = 0) := by
  unfold Handler.fetchStep at hf
  split at hf
  · next n hn =>
    obtain ⟨h1, rfl⟩ := State.fetchImm_ok hf
    simpa [hn] using h1
  · next hn =>
    cases hf
    simp [hn, State.advance]

/-! ### Checking a command (R71) -/

/-- S0 passes a command only if its fields are in range, and the handler is the form it names. -/
theorem Command.check_some {c : Command} {h : Handler} (hc : c.check = some h) :
    ∃ w iw, widthOfCode c.w = some w ∧ widthOfCode c.iw = some iw ∧ iw.bytes ≤ w.bytes ∧ c.op.val ≤ 8 ∧
      formOfCommand c w iw = some h := by
  unfold Command.check at hc
  split at hc
  · next w iw hw hiw =>
    split at hc
    · next hle => exact ⟨w, iw, hw, hiw, hle.1, hle.2, hc⟩
    · cases hc
  · cases hc

/-- No form accepts an operation code above 8. -/
theorem Command.check_op {c : Command} (h : 8 < c.op.val) : c.check = none := by
  cases hc : c.check with
  | none => rfl
  | some f => obtain ⟨_, _, _, _, _, hle, _⟩ := Command.check_some hc; omega

/-! ### The bytes at `ip` (R131) -/

theorem SameAtIp.mono {m n : Nat} {s t : State} (h : SameAtIp n s t) (hmn : m ≤ n) : SameAtIp m s t :=
  ⟨h.1, h.2.1, h.2.2.1, fun k hk => h.2.2.2 k (Nat.lt_of_lt_of_le hk hmn)⟩

theorem Memory.getBytes_congr {m m' : Memory} {a n : Nat} (h : ∀ j, j < n → m.get (a + j) = m'.get (a + j)) :
    m.getBytes a n = m'.getBytes a n := by
  induction n generalizing a with
  | zero => rfl
  | succ n ih =>
    have h0 : m.get a = m'.get a := h 0 (Nat.succ_pos n)
    simp only [Memory.getBytes, h0]
    rw [ih fun j hj => by simpa [Nat.add_assoc, Nat.add_comm 1 j] using h (j + 1) (Nat.succ_lt_succ hj)]

/-- A read within the bytes at `ip` on which two states agree answers the same in both, a fault included. -/
theorem SameAtIp.memRead {k n len : Nat} {s t : State} (h : SameAtIp len s t) (hm : s.memSize ≤ Config.addressSpace)
    (hk : k + n ≤ len) : s.memRead (s.ip + BitVec.ofNat 32 k) n = t.memRead (t.ip + BitVec.ofNat 32 k) n := by
  obtain ⟨-, hz, hip, hb⟩ := h
  rw [← hip]
  unfold State.memRead
  have had : t.memAdmit (s.ip + BitVec.ofNat 32 k) n = s.memAdmit (s.ip + BitVec.ofNat 32 k) n := by
    simp only [State.memAdmit, hz]
  rw [had]
  split
  · next ha =>
    have ha : (s.ip + BitVec.ofNat 32 k).toNat + n ≤ s.memSize := of_decide_eq_true ha
    rw [Memory.getBytes_congr (m' := t.mem) fun j hj => ?_]
    have hlt : (s.ip + BitVec.ofNat 32 k).toNat + j < 2 ^ 32 :=
      Nat.lt_of_lt_of_le (Nat.add_lt_add_left hj _) (Nat.le_trans ha hm)
    have he : (s.ip + BitVec.ofNat 32 k).toNat + j = (s.ip + BitVec.ofNat 32 (k + j)).toNat := by
      rw [BitVec.ofNat_add, ← BitVec.add_assoc, BitVec.toNat_add _ (BitVec.ofNat 32 j), BitVec.toNat_ofNat,
        Nat.add_mod_mod, Nat.mod_eq_of_lt hlt]
    rw [he]
    exact hb (k + j) (by omega)
  · rfl

/-! ### Committing (R142) -/

/-- S5 to S8 of every form but JMP keep `ip`, the launch parameters, the engine and the invariant. -/
theorem Handler.commit_keeps {h : Handler} {rm : RM} {r : Reg} {imm : Nat} {s t : State} (hj : ∀ w, h ≠ .jmpRel w)
    (hc : h.commit rm r imm s = .ok t) : Keeps s t := by
  cases h with
  | movRImm w r3 => cases hc; exact State.regWrite_keeps _ _ _ _
  | movRmImm w => exact State.writeRM_keeps hc
  | movRmR w => exact State.writeRM_keeps hc
  | movRRm w => obtain ⟨a, ha, hb⟩ := bind_ok hc; cases hb; exact State.regWrite_keeps _ _ _ _
  | movAccMoffs w => obtain ⟨a, ha, hb⟩ := bind_ok hc; cases hb; exact State.regWrite_keeps _ _ _ _
  | movMoffsAcc w => exact State.writeRM_keeps (rm := .mem _ w) hc
  | aluAccImm op w iw => cases hc; exact (aluCommitReg_spec _ _ _ _ _ _).2.1
  | aluRmImm op w iw => obtain ⟨a, ha, hb⟩ := bind_ok hc; exact (aluCommitRM_ok hb).2.1
  | aluRmR op w => obtain ⟨a, ha, hb⟩ := bind_ok hc; exact (aluCommitRM_ok hb).2.1
  | aluRRm op w => obtain ⟨a, ha, hb⟩ := bind_ok hc; cases hb; exact (aluCommitReg_spec _ _ _ _ _ _).2.1
  | unaryRm op w =>
    obtain ⟨a, ha, hb⟩ := bind_ok hc
    obtain ⟨u, hu, hb⟩ := bind_ok hb
    cases hb
    exact (State.writeRM_keeps hu).setFlags _
  | jmpRel w => exact absurd rfl (hj w)

/-! ### The whole invocation (R140) -/

/-- A handler that answers MATCHED has passed S2, S3 and S4 and committed. -/
theorem Handler.run_matched {dec : AddrDecoder} {h : Handler} {s t : State} (hr : h.run dec s = .matched t) :
    ∃ rm r s1 imm s2, h.decodeStep dec s = .ok (rm, r, s1) ∧ h.mismatch r = false ∧
      h.fetchStep s1 = .ok (imm, s2) ∧ h.commit rm r.val imm s2 = .ok t := by
  unfold Handler.run at hr
  split at hr
  · cases hr
  · next rm r s1 h1 =>
    split at hr
    · cases hr
    · next hm =>
      split at hr
      · cases hr
      · next imm s2 h2 =>
        split at hr
        · cases hr
        · next u h3 => cases hr; exact ⟨rm, r, s1, imm, s2, h1, by simpa using hm, h2, h3⟩

end Sys2Proof.Machine
end

