-- ==== Sys2Proof/Tests/Slice0.lean ====
section
/-! SUPPORT. Tests: ill-formed terms refused, the decoding of every row from bytes written out from the encoding tables
(spec/30_encoding.md R76 to R82), single steps of spec/95_test_vectors.md, and a witness for the hypotheses of every
statement that has some. Expected values come from the spec's vectors and tables. -/

namespace Sys2Proof.Tests

open Sys2Proof.Machine Sys2Proof.Claims

/-! ### WellFormed -/

/-- `rm = 4` is the SIB escape (R76), so register 4 is no plain base. -/
theorem test_illformed_base4 : Instr.wf (.notRm8 false (.base 4 .none)) = false := by decide

/-- `mod = 0` with `rm = 5` is a bare displacement (R76). -/
theorem test_illformed_base5 : Instr.wf (.addRmR8 false (.base 5 .none) 0) = false := by decide

/-- A SIB base field 5 with `mod = 0` is no register (R77). -/
theorem test_illformed_sib_base5 : Instr.wf (.movRRmv .v4 1 (.sib 2 1 5 .none)) = false := by decide

/-- The forms next to the refused ones are well formed (R76, R77). -/
theorem test_wellformed_forms :
    [Addressing.reg 4, .base 5 (.disp8 0#8), .abs 0#32, .sib 3 4 4 .none, .sib 0 1 5 (.disp32 1#32),
      .sibAbs 1 7 2#32].all Addressing.wf = true := by decide

/-! ### Decoding: one word for each row -/

/-- ADD: opcode bytes 00 to 05, and 80, 81, 83 with extension 0 (R81, R82). -/
theorem test_decode_add :
    decode [0x00#8, 0x0B#8] = .ok (.addRmR8 false (.base 3 .none) 1, 2) ∧
    decode [0x66#8, 0x01#8, 0xD1#8] = .ok (.addRmRv .v2 (.reg 1) 2, 3) ∧
    decode [0x66#8, 0x02#8, 0x6E#8, 0xFC#8] = .ok (.addRRm8 true 5 (.base 6 (.disp8 0xFC#8)), 4) ∧
    decode [0x03#8, 0xB8#8, 0x00#8, 0x01#8, 0x00#8, 0x80#8] =
      .ok (.addRRmv .v4 7 (.base 0 (.disp32 0x80000100#32)), 6) ∧
    decode [0x04#8, 0x0F#8] = .ok (.addAccImm8 false 0x0F#8, 2) ∧
    decode [0x05#8, 0x78#8, 0x56#8, 0x34#8, 0x12#8] = .ok (.addAccImmv (.dword 0x12345678#32), 5) ∧
    decode [0x80#8, 0xC1#8, 0x0F#8] = .ok (.addRmImm8 false (.reg 1) 0x0F#8, 3) ∧
    decode [0x66#8, 0x81#8, 0x05#8, 0x04#8, 0x20#8, 0x00#8, 0x00#8, 0xEF#8, 0xBE#8] =
      .ok (.addRmImmv (.abs 0x2004#32) (.word 0xBEEF#16), 9) ∧
    decode [0x83#8, 0x04#8, 0x8B#8, 0xF0#8] = .ok (.addRmSImm8 .v4 (.sib 2 1 3 .none) 0xF0#8, 4) := by decide

/-- OR: opcode bytes 08 to 0D, and 80, 81, 83 with extension 1 (R81, R82). -/
theorem test_decode_or :
    decode [0x08#8, 0x0B#8] = .ok (.orRmR8 false (.base 3 .none) 1, 2) ∧
    decode [0x66#8, 0x09#8, 0xD1#8] = .ok (.orRmRv .v2 (.reg 1) 2, 3) ∧
    decode [0x66#8, 0x0A#8, 0x6E#8, 0xFC#8] = .ok (.orRRm8 true 5 (.base 6 (.disp8 0xFC#8)), 4) ∧
    decode [0x0B#8, 0xB8#8, 0x00#8, 0x01#8, 0x00#8, 0x80#8] =
      .ok (.orRRmv .v4 7 (.base 0 (.disp32 0x80000100#32)), 6) ∧
    decode [0x0C#8, 0x0F#8] = .ok (.orAccImm8 false 0x0F#8, 2) ∧
    decode [0x0D#8, 0x78#8, 0x56#8, 0x34#8, 0x12#8] = .ok (.orAccImmv (.dword 0x12345678#32), 5) ∧
    decode [0x80#8, 0xC9#8, 0x0F#8] = .ok (.orRmImm8 false (.reg 1) 0x0F#8, 3) ∧
    decode [0x66#8, 0x81#8, 0x0D#8, 0x04#8, 0x20#8, 0x00#8, 0x00#8, 0xEF#8, 0xBE#8] =
      .ok (.orRmImmv (.abs 0x2004#32) (.word 0xBEEF#16), 9) ∧
    decode [0x83#8, 0x0C#8, 0x8B#8, 0xF0#8] = .ok (.orRmSImm8 .v4 (.sib 2 1 3 .none) 0xF0#8, 4) := by decide

/-- AND: opcode bytes 20 to 25, and 80, 81, 83 with extension 4 (R81, R82). -/
theorem test_decode_and :
    decode [0x20#8, 0x0B#8] = .ok (.andRmR8 false (.base 3 .none) 1, 2) ∧
    decode [0x66#8, 0x21#8, 0xD1#8] = .ok (.andRmRv .v2 (.reg 1) 2, 3) ∧
    decode [0x66#8, 0x22#8, 0x6E#8, 0xFC#8] = .ok (.andRRm8 true 5 (.base 6 (.disp8 0xFC#8)), 4) ∧
    decode [0x23#8, 0xB8#8, 0x00#8, 0x01#8, 0x00#8, 0x80#8] =
      .ok (.andRRmv .v4 7 (.base 0 (.disp32 0x80000100#32)), 6) ∧
    decode [0x24#8, 0x0F#8] = .ok (.andAccImm8 false 0x0F#8, 2) ∧
    decode [0x25#8, 0x78#8, 0x56#8, 0x34#8, 0x12#8] = .ok (.andAccImmv (.dword 0x12345678#32), 5) ∧
    decode [0x80#8, 0xE1#8, 0x0F#8] = .ok (.andRmImm8 false (.reg 1) 0x0F#8, 3) ∧
    decode [0x66#8, 0x81#8, 0x25#8, 0x04#8, 0x20#8, 0x00#8, 0x00#8, 0xEF#8, 0xBE#8] =
      .ok (.andRmImmv (.abs 0x2004#32) (.word 0xBEEF#16), 9) ∧
    decode [0x83#8, 0x24#8, 0x8B#8, 0xF0#8] = .ok (.andRmSImm8 .v4 (.sib 2 1 3 .none) 0xF0#8, 4) := by decide

/-- SUB: opcode bytes 28 to 2D, and 80, 81, 83 with extension 5 (R81, R82). -/
theorem test_decode_sub :
    decode [0x28#8, 0x0B#8] = .ok (.subRmR8 false (.base 3 .none) 1, 2) ∧
    decode [0x66#8, 0x29#8, 0xD1#8] = .ok (.subRmRv .v2 (.reg 1) 2, 3) ∧
    decode [0x66#8, 0x2A#8, 0x6E#8, 0xFC#8] = .ok (.subRRm8 true 5 (.base 6 (.disp8 0xFC#8)), 4) ∧
    decode [0x2B#8, 0xB8#8, 0x00#8, 0x01#8, 0x00#8, 0x80#8] =
      .ok (.subRRmv .v4 7 (.base 0 (.disp32 0x80000100#32)), 6) ∧
    decode [0x2C#8, 0x0F#8] = .ok (.subAccImm8 false 0x0F#8, 2) ∧
    decode [0x2D#8, 0x78#8, 0x56#8, 0x34#8, 0x12#8] = .ok (.subAccImmv (.dword 0x12345678#32), 5) ∧
    decode [0x80#8, 0xE9#8, 0x0F#8] = .ok (.subRmImm8 false (.reg 1) 0x0F#8, 3) ∧
    decode [0x66#8, 0x81#8, 0x2D#8, 0x04#8, 0x20#8, 0x00#8, 0x00#8, 0xEF#8, 0xBE#8] =
      .ok (.subRmImmv (.abs 0x2004#32) (.word 0xBEEF#16), 9) ∧
    decode [0x83#8, 0x2C#8, 0x8B#8, 0xF0#8] = .ok (.subRmSImm8 .v4 (.sib 2 1 3 .none) 0xF0#8, 4) := by decide

/-- XOR: opcode bytes 30 to 35, and 80, 81, 83 with extension 6 (R81, R82). -/
theorem test_decode_xor :
    decode [0x30#8, 0x0B#8] = .ok (.xorRmR8 false (.base 3 .none) 1, 2) ∧
    decode [0x66#8, 0x31#8, 0xD1#8] = .ok (.xorRmRv .v2 (.reg 1) 2, 3) ∧
    decode [0x66#8, 0x32#8, 0x6E#8, 0xFC#8] = .ok (.xorRRm8 true 5 (.base 6 (.disp8 0xFC#8)), 4) ∧
    decode [0x33#8, 0xB8#8, 0x00#8, 0x01#8, 0x00#8, 0x80#8] =
      .ok (.xorRRmv .v4 7 (.base 0 (.disp32 0x80000100#32)), 6) ∧
    decode [0x34#8, 0x0F#8] = .ok (.xorAccImm8 false 0x0F#8, 2) ∧
    decode [0x35#8, 0x78#8, 0x56#8, 0x34#8, 0x12#8] = .ok (.xorAccImmv (.dword 0x12345678#32), 5) ∧
    decode [0x80#8, 0xF1#8, 0x0F#8] = .ok (.xorRmImm8 false (.reg 1) 0x0F#8, 3) ∧
    decode [0x66#8, 0x81#8, 0x35#8, 0x04#8, 0x20#8, 0x00#8, 0x00#8, 0xEF#8, 0xBE#8] =
      .ok (.xorRmImmv (.abs 0x2004#32) (.word 0xBEEF#16), 9) ∧
    decode [0x83#8, 0x34#8, 0x8B#8, 0xF0#8] = .ok (.xorRmSImm8 .v4 (.sib 2 1 3 .none) 0xF0#8, 4) := by decide

/-- CMP: opcode bytes 38 to 3D, and 80, 81, 83 with extension 7 (R81, R82). -/
theorem test_decode_cmp :
    decode [0x38#8, 0x0B#8] = .ok (.cmpRmR8 false (.base 3 .none) 1, 2) ∧
    decode [0x66#8, 0x39#8, 0xD1#8] = .ok (.cmpRmRv .v2 (.reg 1) 2, 3) ∧
    decode [0x66#8, 0x3A#8, 0x6E#8, 0xFC#8] = .ok (.cmpRRm8 true 5 (.base 6 (.disp8 0xFC#8)), 4) ∧
    decode [0x3B#8, 0xB8#8, 0x00#8, 0x01#8, 0x00#8, 0x80#8] =
      .ok (.cmpRRmv .v4 7 (.base 0 (.disp32 0x80000100#32)), 6) ∧
    decode [0x3C#8, 0x0F#8] = .ok (.cmpAccImm8 false 0x0F#8, 2) ∧
    decode [0x3D#8, 0x78#8, 0x56#8, 0x34#8, 0x12#8] = .ok (.cmpAccImmv (.dword 0x12345678#32), 5) ∧
    decode [0x80#8, 0xF9#8, 0x0F#8] = .ok (.cmpRmImm8 false (.reg 1) 0x0F#8, 3) ∧
    decode [0x66#8, 0x81#8, 0x3D#8, 0x04#8, 0x20#8, 0x00#8, 0x00#8, 0xEF#8, 0xBE#8] =
      .ok (.cmpRmImmv (.abs 0x2004#32) (.word 0xBEEF#16), 9) ∧
    decode [0x83#8, 0x3C#8, 0x8B#8, 0xF0#8] = .ok (.cmpRmSImm8 .v4 (.sib 2 1 3 .none) 0xF0#8, 4) := by decide

/-- TEST: 84, 85, A8, A9, and F6, F7 with extension 0 (R81, R82). -/
theorem test_decode_test :
    decode [0x84#8, 0x0B#8] = .ok (.testRmR8 false (.base 3 .none) 1, 2) ∧
    decode [0x85#8, 0xD1#8] = .ok (.testRmRv .v4 (.reg 1) 2, 2) ∧
    decode [0xA8#8, 0x01#8] = .ok (.testAccImm8 false 0x01#8, 2) ∧
    decode [0x66#8, 0xA9#8, 0x34#8, 0x12#8] = .ok (.testAccImmv (.word 0x1234#16), 4) ∧
    decode [0xF6#8, 0xC1#8, 0x0F#8] = .ok (.testRmImm8 false (.reg 1) 0x0F#8, 3) ∧
    decode [0xF7#8, 0x44#8, 0x25#8, 0x10#8, 0xFF#8, 0x00#8, 0x00#8, 0x80#8] =
      .ok (.testRmImmv (.sib 0 4 5 (.disp8 0x10#8)) (.dword 0x800000FF#32), 8) := by decide

/-- NOT and NEG: F6, F7 with extensions 2 and 3 (R82). -/
theorem test_decode_not_neg :
    decode [0xF6#8, 0xD0#8] = .ok (.notRm8 false (.reg 0), 2) ∧
    decode [0xF7#8, 0x13#8] = .ok (.notRmv .v4 (.base 3 .none), 2) ∧
    decode [0xF6#8, 0x5B#8, 0x01#8] = .ok (.negRm8 false (.base 3 (.disp8 0x01#8)), 3) ∧
    decode [0x66#8, 0xF7#8, 0xD9#8] = .ok (.negRmv .v2 (.reg 1), 3) := by decide

/-- MOV: 88 to 8B, A0 to A3, B0 to BF, C6 and C7 with extension 0 (R81, R82). -/
theorem test_decode_mov :
    decode [0x88#8, 0x05#8, 0x1D#8, 0x04#8, 0x00#8, 0x00#8] = .ok (.movRmR8 false (.abs 0x41D#32) 0, 6) ∧
    decode [0x89#8, 0x54#8, 0x8B#8, 0xFC#8] = .ok (.movRmRv .v4 (.sib 2 1 3 (.disp8 0xFC#8)) 2, 4) ∧
    decode [0x8A#8, 0x0B#8] = .ok (.movRRm8 false 1 (.base 3 .none), 2) ∧
    decode [0x8B#8, 0x0C#8, 0x8D#8, 0x00#8, 0x30#8, 0x00#8, 0x00#8] =
      .ok (.movRRmv .v4 1 (.sibAbs 2 1 0x3000#32), 7) ∧
    decode [0xA0#8, 0x00#8, 0x20#8, 0x00#8, 0x00#8] = .ok (.movAccMoffs8 false 0x2000#32, 5) ∧
    decode [0x66#8, 0xA1#8, 0x01#8, 0x20#8, 0x00#8, 0x00#8] = .ok (.movAccMoffsv .v2 0x2001#32, 6) ∧
    decode [0xA2#8, 0x05#8, 0x20#8, 0x00#8, 0x00#8] = .ok (.movMoffsAcc8 false 0x2005#32, 5) ∧
    decode [0xA3#8, 0x04#8, 0x20#8, 0x00#8, 0x00#8] = .ok (.movMoffsAccv .v4 0x2004#32, 5) ∧
    decode [0xB3#8, 0x7F#8] = .ok (.movRImm8 false 3 0x7F#8, 2) ∧
    decode [0x66#8, 0xBA#8, 0xEF#8, 0xBE#8] = .ok (.movRImmv 2 (.word 0xBEEF#16), 4) ∧
    decode [0xC6#8, 0x03#8, 0x99#8] = .ok (.movRmImm8 false (.base 3 .none) 0x99#8, 3) ∧
    decode [0xC7#8, 0x84#8, 0xF7#8, 0x04#8, 0x03#8, 0x02#8, 0x01#8, 0xEF#8, 0xBE#8, 0xAD#8, 0xDE#8] =
      .ok (.movRmImmv (.sib 3 6 7 (.disp32 0x01020304#32)) (.dword 0xDEADBEEF#32), 11) := by decide

/-- JMP: EB and E9 (R81). -/
theorem test_decode_jmp :
    decode [0xEB#8, 0x05#8] = .ok (.jmpRel8 false 0x05#8, 2) ∧
    decode [0x66#8, 0xE9#8, 0x00#8, 0x80#8] = .ok (.jmpRelv (.word 0x8000#16), 4) ∧
    decode [0xE9#8, 0xFB#8, 0xFF#8, 0xFF#8, 0xFF#8] = .ok (.jmpRelv (.dword 0xFFFFFFFB#32), 5) := by decide

/-- Every register of the two runs of eight opcode bytes B0 to B7 and B8 to BF (R81). -/
theorem test_decode_mov_registers :
    (List.range 8).all (fun r =>
      decide (decode [BitVec.ofNat 8 (0xB0 + r), 0x7F#8] = .ok (.movRImm8 false (Fin.ofNat 8 r) 0x7F#8, 2)) &&
      decide (decode [BitVec.ofNat 8 (0xB8 + r), 1#8, 0#8, 0#8, 0#8] =
        .ok (.movRImmv (Fin.ofNat 8 r) (.dword 1#32), 5))) = true := by decide

/-- R81 lists 73 opcode bytes; the other 183 are rejected by name (R86). -/
theorem test_unlisted_opcodes :
    ((List.range 256).filter fun b => (opmapDefault b .w4).isEmpty).length = 183 ∧
    ((List.range 256).filter fun b =>
      decide (decode (BitVec.ofNat 8 b :: List.replicate 10 0#8) = .error (.noCandidate b))).length = 182 := by
  decide +kernel

/-- Reserved extensions of each shared byte, and a second prefix, are refused (R84, R87; vectors F2, F4, F9, F10). -/
theorem test_reserved :
    decode [0x80#8, 0xD0#8, 0x01#8] = .error (.reservedExtension 0x80 2) ∧
    decode [0xC6#8, 0xC8#8, 0x01#8] = .error (.reservedExtension 0xC6 1) ∧
    decode [0xF6#8, 0xE0#8] = .error (.reservedExtension 0xF6 4) ∧
    decode [0x66#8, 0x66#8, 0x05#8, 0x01#8, 0x00#8] = .error (.noCandidate 0x66) ∧
    decode [0xB8#8, 0x01#8, 0x02#8] = .error (.unreadable 1 4) := by decide

/-- The table's words: `K` is the opcode byte, then the next byte (R89). -/
theorem test_table_words :
    decodeTableWord 16 0x04FF = some (.addAccImm8 false 0xFF#8) ∧
    decodeTableWord 16 0x80E8 = some (.subRmImm8 false (.reg 0) 0x00#8) ∧
    decodeTableWord 16 0x90FF = none := by decide

/-! ### Single steps: vectors of spec/95_test_vectors.md -/

/-- Registers by index, the others zero. -/
def regsOf (l : List (Nat × Nat)) : Vector Word 8 :=
  l.foldl (fun v p => v.setIfInBounds p.1 (BitVec.ofNat 32 p.2)) (Vector.replicate 8 0#32)

/-- The flags written `SF ZF OF CF`, as the vectors write them. -/
def flagsOf (n : Nat) : Flags := ⟨n.testBit 3, n.testBit 2, n.testBit 1, n.testBit 0⟩

/-- The launch state of a vector: bytes from 0x100 on, registers, flags, and a 4-byte pattern at 0x2000 and at 0x2004. -/
def at100 (code : List Byte) (regs : List (Nat × Nat)) (f : Flags) (m0 : Nat := 0) (m4 : Nat := 0) : State :=
  { State.reset with
    regs := regsOf regs
    ip := 0x100#32
    flags := f
    mem := ((Memory.setBytes [] 0x100 code).setBytes 0x2000 (leBytes 4 m0)).setBytes 0x2004 (leBytes 4 m4) }

/-- Whether an outcome is a next state with a property. -/
def nextAnd (o : Host.Outcome State Fault Refusal) (p : State → Bool) : Bool :=
  match o with
  | .next t => p t
  | .fault _ => false
  | .refused _ => false

/-- Whether an outcome is the fault. -/
def faults (o : Host.Outcome State Fault Refusal) (f : Fault) : Bool :=
  match o with
  | .next _ => false
  | .fault g => g = f
  | .refused _ => false

/-- A step's next state has the registers, flags, ip and the two patterns. -/
def stepGives (s : State) (regs : List (Nat × Nat)) (f : Flags) (ip : Nat) (m0 : Nat := 0) (m4 : Nat := 0) : Bool :=
  nextAnd (step s) fun t =>
    t.regs = regsOf regs && t.flags = f && t.ip = BitVec.ofNat 32 ip &&
      t.memRead 0x2000#32 4 == .ok m0 && t.memRead 0x2004#32 4 == .ok m4

/-- Vector A1: `ADD.b r0, #0x01`. -/
theorem test_vector_A1 :
    stepGives (at100 [0x04#8, 0x01#8] [(0, 0xFF)] (flagsOf 0b1011))
      [(0, 0x0)] (flagsOf 0b0111) 0x102 = true := by decide

/-- Vector A2: `SUB.b r0, #0x01`. -/
theorem test_vector_A2 :
    stepGives (at100 [0x2C#8, 0x01#8] [(0, 0x0)] (flagsOf 0b1011))
      [(0, 0xFF)] (flagsOf 0b1001) 0x102 = true := by decide

/-- Vector A7: `ADD.d r0, #0xFE:b`. -/
theorem test_vector_A7 :
    stepGives (at100 [0x83#8, 0xC0#8, 0xFE#8] [(0, 0x5)] (flagsOf 0b1011))
      [(0, 0x3)] (flagsOf 0b0011) 0x103 = true := by decide

/-- Vector A9: `SUB.b r0, #0x00`. -/
theorem test_vector_A9 :
    stepGives (at100 [0x2C#8, 0x00#8] [(0, 0x5)] (flagsOf 0b1011))
      [(0, 0x5)] (flagsOf 0b0011) 0x102 = true := by decide

/-- Vector A11: `CMP.b r0, #0x00`. -/
theorem test_vector_A11 :
    stepGives (at100 [0x3C#8, 0x00#8] [(0, 0x5)] (flagsOf 0b1011))
      [(0, 0x5)] (flagsOf 0b0011) 0x102 = true := by decide

/-- Vector A13: `SUB.w r0, #0xFFFF`. -/
theorem test_vector_A13 :
    stepGives (at100 [0x66#8, 0x2D#8, 0xFF#8, 0xFF#8] [(0, 0x7FFF)] (flagsOf 0b1011))
      [(0, 0x8000)] (flagsOf 0b1001) 0x104 = true := by decide

/-- Vector A14: `ADD.w r0, #0xEDCC`. -/
theorem test_vector_A14 :
    stepGives (at100 [0x66#8, 0x05#8, 0xCC#8, 0xED#8] [(0, 0xABCD1234)] (flagsOf 0b1011))
      [(0, 0xABCD0000)] (flagsOf 0b0111) 0x104 = true := by decide

/-- Vector A15: `SUB.w r0, #0xF0:b`. -/
theorem test_vector_A15 :
    stepGives (at100 [0x66#8, 0x83#8, 0xE8#8, 0xF0#8] [(0, 0x50010)] (flagsOf 0b1011))
      [(0, 0x50020)] (flagsOf 0b0001) 0x104 = true := by decide

/-- Vector A18: `ADD.d r0, #1`. -/
theorem test_vector_A18 :
    stepGives (at100 [0x05#8, 0x01#8, 0x00#8, 0x00#8, 0x00#8] [(0, 0x7FFFFFFF)] (flagsOf 0b1011))
      [(0, 0x80000000)] (flagsOf 0b1001) 0x105 = true := by decide

/-- Vector A19: `CMP.d r1, r2`. -/
theorem test_vector_A19 :
    stepGives (at100 [0x39#8, 0xD1#8] [(1, 0x1), (2, 0x2)] (flagsOf 0b1011))
      [(1, 0x1), (2, 0x2)] (flagsOf 0b1001) 0x102 = true := by decide

/-- Vector A21: `CMP.d r2, r1 (register-destination form)`. -/
theorem test_vector_A21 :
    stepGives (at100 [0x3B#8, 0xD1#8] [(1, 0x1), (2, 0x2)] (flagsOf 0b1011))
      [(1, 0x1), (2, 0x2)] (flagsOf 0b0011) 0x102 = true := by decide

/-- Vector A22: `ADD.d [r3], r1`. -/
theorem test_vector_A22 :
    stepGives (at100 [0x01#8, 0x0B#8] [(1, 0xFFFFFF80), (3, 0x2000)] (flagsOf 0b1011) 0x00001000)
      [(1, 0xFFFFFF80), (3, 0x2000)] (flagsOf 0b0011) 0x102 0x00000F80 = true := by decide

/-- Vector A23: `ADD.b r1, [r3]`. -/
theorem test_vector_A23 :
    stepGives (at100 [0x02#8, 0x0B#8] [(1, 0x11223344), (3, 0x2000)] (flagsOf 0b1011) 0x00000044)
      [(1, 0x11223388), (3, 0x2000)] (flagsOf 0b1001) 0x102 0x00000044 = true := by decide

/-- Vector A25: `SUB.d [r3+4], #0x2000 (A25 with its operand at 0x2004)`. -/
theorem test_vector_A25 :
    stepGives (at100 [0x81#8, 0x6B#8, 0x04#8, 0x00#8, 0x20#8, 0x00#8, 0x00#8] [(3, 0x2000)]
      (flagsOf 0b1011) 0x00000000 0x00001000)
      [(3, 0x2000)] (flagsOf 0b1001) 0x107 0x00000000 0xFFFFF000 = true := by decide

/-- Vector A26: `SUB.b r0, r0`. -/
theorem test_vector_A26 :
    stepGives (at100 [0x28#8, 0xC0#8] [(0, 0x123456FF)] (flagsOf 0b1011))
      [(0, 0x12345600)] (flagsOf 0b0111) 0x102 = true := by decide

/-- Vector A28: `CMP.b [r3], #0x79`. -/
theorem test_vector_A28 :
    stepGives (at100 [0x80#8, 0x3B#8, 0x79#8] [(3, 0x2000)] (flagsOf 0b1011) 0x00000078)
      [(3, 0x2000)] (flagsOf 0b1001) 0x103 0x00000078 = true := by decide

/-- Vector A29: `CMP.d r0, #0x12345678`. -/
theorem test_vector_A29 :
    stepGives (at100 [0x3D#8, 0x78#8, 0x56#8, 0x34#8, 0x12#8] [(0, 0x12345678)] (flagsOf 0b1011))
      [(0, 0x12345678)] (flagsOf 0b0111) 0x105 = true := by decide

/-- Vector A30: `ADD.w r1, #0x0001`. -/
theorem test_vector_A30 :
    stepGives (at100 [0x66#8, 0x81#8, 0xC1#8, 0x01#8, 0x00#8] [(1, 0xDEADFFFF)] (flagsOf 0b1011))
      [(1, 0xDEAD0000)] (flagsOf 0b0111) 0x105 = true := by decide

/-- Vector A32: `SUB.b r1, #0x05`. -/
theorem test_vector_A32 :
    stepGives (at100 [0x80#8, 0xE9#8, 0x05#8] [(1, 0x3)] (flagsOf 0b1011))
      [(1, 0xFE)] (flagsOf 0b1001) 0x103 = true := by decide

/-- Vector A35: `SUB.d r1, [r3], unaligned`. -/
theorem test_vector_A35 :
    stepGives (at100 [0x2B#8, 0x0B#8] [(1, 0x1000), (3, 0x2001)] (flagsOf 0b1011) 0x00200000)
      [(1, 0xFFFFF000), (3, 0x2001)] (flagsOf 0b1001) 0x102 0x00200000 = true := by decide

/-- Vector A36: `ADD.d [r3], r3`. -/
theorem test_vector_A36 :
    stepGives (at100 [0x01#8, 0x1B#8] [(3, 0x2000)] (flagsOf 0b1011) 0xFFFFE000)
      [(3, 0x2000)] (flagsOf 0b0111) 0x102 = true := by decide

/-- Vector B1: `AND.b r0, #0x0F`. -/
theorem test_vector_B1 :
    stepGives (at100 [0x24#8, 0x0F#8] [(0, 0xF0)] (flagsOf 0b1111))
      [(0, 0x0)] (flagsOf 0b0100) 0x102 = true := by decide

/-- Vector B2: `OR.b r0, #0x0F`. -/
theorem test_vector_B2 :
    stepGives (at100 [0x0C#8, 0x0F#8] [(0, 0xF0)] (flagsOf 0b1111))
      [(0, 0xFF)] (flagsOf 0b1000) 0x102 = true := by decide

/-- Vector B3: `XOR.b r0, #0xFF`. -/
theorem test_vector_B3 :
    stepGives (at100 [0x34#8, 0xFF#8] [(0, 0xFF)] (flagsOf 0b1111))
      [(0, 0x0)] (flagsOf 0b0100) 0x102 = true := by decide

/-- Vector B5: `TEST.d r0, #0xFFFFFFFF`. -/
theorem test_vector_B5 :
    stepGives (at100 [0xA9#8, 0xFF#8, 0xFF#8, 0xFF#8, 0xFF#8] [(0, 0x80000000)] (flagsOf 0b1111))
      [(0, 0x80000000)] (flagsOf 0b1000) 0x105 = true := by decide

/-- Vector B6: `XOR.w r0, #0x56FF`. -/
theorem test_vector_B6 :
    stepGives (at100 [0x66#8, 0x35#8, 0xFF#8, 0x56#8] [(0, 0x123456FF)] (flagsOf 0b1111))
      [(0, 0x12340000)] (flagsOf 0b0100) 0x104 = true := by decide

/-- Vector B7: `OR.d r0, #0`. -/
theorem test_vector_B7 :
    stepGives (at100 [0x0D#8, 0x00#8, 0x00#8, 0x00#8, 0x00#8] [(0, 0x0)] (flagsOf 0b1111))
      [(0, 0x0)] (flagsOf 0b0100) 0x105 = true := by decide

/-- Vector B8: `OR.w r1, #0x80:b`. -/
theorem test_vector_B8 :
    stepGives (at100 [0x66#8, 0x83#8, 0xC9#8, 0x80#8] [(1, 0x1234)] (flagsOf 0b1111))
      [(1, 0xFFB4)] (flagsOf 0b1000) 0x104 = true := by decide

/-- Vector B9: `AND.d r1, #0xF0:b`. -/
theorem test_vector_B9 :
    stepGives (at100 [0x83#8, 0xE1#8, 0xF0#8] [(1, 0x12345678)] (flagsOf 0b1111))
      [(1, 0x12345670)] (flagsOf 0b0000) 0x103 = true := by decide

/-- Vector B10: `XOR.d r1, r2`. -/
theorem test_vector_B10 :
    stepGives (at100 [0x31#8, 0xD1#8] [(1, 0xAAAAAAAA), (2, 0x55555555)] (flagsOf 0b1111))
      [(1, 0xFFFFFFFF), (2, 0x55555555)] (flagsOf 0b1000) 0x102 = true := by decide

/-- Vector B11: `AND.b r1, #0x0F`. -/
theorem test_vector_B11 :
    stepGives (at100 [0x80#8, 0xE1#8, 0x0F#8] [(1, 0x222222AB)] (flagsOf 0b1111))
      [(1, 0x2222220B)] (flagsOf 0b0000) 0x103 = true := by decide

/-- Vector B12: `TEST.b r0, #0x01`. -/
theorem test_vector_B12 :
    stepGives (at100 [0xA8#8, 0x01#8] [(0, 0x1)] (flagsOf 0b1111))
      [(0, 0x1)] (flagsOf 0b0000) 0x102 = true := by decide

/-- Vector B13: `TEST.b r1, #0x0F`. -/
theorem test_vector_B13 :
    stepGives (at100 [0xF6#8, 0xC1#8, 0x0F#8] [(1, 0xF0)] (flagsOf 0b1111))
      [(1, 0xF0)] (flagsOf 0b0100) 0x103 = true := by decide

/-- Vector B14: `OR.b [r3], r1`. -/
theorem test_vector_B14 :
    stepGives (at100 [0x08#8, 0x0B#8] [(1, 0x80), (3, 0x2000)] (flagsOf 0b1111) 0x0000007F)
      [(1, 0x80), (3, 0x2000)] (flagsOf 0b1000) 0x102 0x000000FF = true := by decide

/-- Vector B15: `AND.w r1, [r3]`. -/
theorem test_vector_B15 :
    stepGives (at100 [0x66#8, 0x23#8, 0x0B#8] [(1, 0x7777FFFF), (3, 0x2000)] (flagsOf 0b1111) 0x00008000)
      [(1, 0x77778000), (3, 0x2000)] (flagsOf 0b1000) 0x103 0x00008000 = true := by decide

/-- Vector B16: `TEST.d r1, r2`. -/
theorem test_vector_B16 :
    stepGives (at100 [0x85#8, 0xD1#8] [(1, 0xFF00), (2, 0xFF0000)] (flagsOf 0b1111))
      [(1, 0xFF00), (2, 0xFF0000)] (flagsOf 0b0100) 0x102 = true := by decide

/-- Vector B18: `XOR.d r1, [0x2000]`. -/
theorem test_vector_B18 :
    stepGives (at100 [0x33#8, 0x0D#8, 0x00#8, 0x20#8, 0x00#8, 0x00#8] [(1, 0xF0F0F0F)] (flagsOf 0b1111) 0xFFFFFFFF)
      [(1, 0xF0F0F0F0)] (flagsOf 0b1000) 0x106 0xFFFFFFFF = true := by decide

/-- Vector B19: `OR.w [r3], #0xFF00`. -/
theorem test_vector_B19 :
    stepGives (at100 [0x66#8, 0x81#8, 0x0B#8, 0x00#8, 0xFF#8] [(3, 0x2000)] (flagsOf 0b1111) 0x000000FF)
      [(3, 0x2000)] (flagsOf 0b1000) 0x105 0x0000FFFF = true := by decide

/-- Vector B20: `TEST.w [r3], #0x00FF`. -/
theorem test_vector_B20 :
    stepGives (at100 [0x66#8, 0xF7#8, 0x03#8, 0xFF#8, 0x00#8] [(3, 0x2000)] (flagsOf 0b1111) 0x00001234)
      [(3, 0x2000)] (flagsOf 0b0000) 0x105 0x00001234 = true := by decide

/-- Vector B21: `AND.d r0, #0xFFFFFFF0`. -/
theorem test_vector_B21 :
    stepGives (at100 [0x25#8, 0xF0#8, 0xFF#8, 0xFF#8, 0xFF#8] [(0, 0x12345678)] (flagsOf 0b1111))
      [(0, 0x12345670)] (flagsOf 0b0000) 0x105 = true := by decide

/-- Vector B23: `TEST.b [r3], r1`. -/
theorem test_vector_B23 :
    stepGives (at100 [0x84#8, 0x0B#8] [(1, 0xB), (3, 0x2000)] (flagsOf 0b1111) 0x000000FF)
      [(1, 0xB), (3, 0x2000)] (flagsOf 0b0000) 0x102 0x000000FF = true := by decide

/-- Vector B24: `XOR.b r1, #0xF5`. -/
theorem test_vector_B24 :
    stepGives (at100 [0x80#8, 0xF1#8, 0xF5#8] [(1, 0xB)] (flagsOf 0b1111))
      [(1, 0xFE)] (flagsOf 0b1000) 0x103 = true := by decide

/-- Vector UN1: `NOT.b r0`. -/
theorem test_vector_UN1 :
    stepGives (at100 [0xF6#8, 0xD0#8] [(0, 0xF)] (flagsOf 0b1011))
      [(0, 0xF0)] (flagsOf 0b1011) 0x102 = true := by decide

/-- Vector UN2: `NEG.b r0`. -/
theorem test_vector_UN2 :
    stepGives (at100 [0xF6#8, 0xD8#8] [(0, 0x1)] (flagsOf 0b1011))
      [(0, 0xFF)] (flagsOf 0b1010) 0x102 = true := by decide

/-- Vector UN3: `NEG.b r0 of zero`. -/
theorem test_vector_UN3 :
    stepGives (at100 [0xF6#8, 0xD8#8] [(0, 0x0)] (flagsOf 0b1010))
      [(0, 0x0)] (flagsOf 0b1011) 0x102 = true := by decide

/-- Vector UN6: `NEG.d r0 of 0x80000000`. -/
theorem test_vector_UN6 :
    stepGives (at100 [0xF7#8, 0xD8#8] [(0, 0x80000000)] (flagsOf 0b1011))
      [(0, 0x80000000)] (flagsOf 0b1010) 0x102 = true := by decide

/-- Vector UN7: `NEG.w r0`. -/
theorem test_vector_UN7 :
    stepGives (at100 [0x66#8, 0xF7#8, 0xD8#8] [(0, 0xABCDFFFF)] (flagsOf 0b1011))
      [(0, 0xABCD0001)] (flagsOf 0b1010) 0x103 = true := by decide

/-- Vector UN8: `NOT.d [r3]`. -/
theorem test_vector_UN8 :
    stepGives (at100 [0xF7#8, 0x13#8] [(3, 0x2000)] (flagsOf 0b1011) 0x12345678)
      [(3, 0x2000)] (flagsOf 0b1011) 0x102 0xEDCBA987 = true := by decide

/-- Vector UN10: `NOT.w r0`. -/
theorem test_vector_UN10 :
    stepGives (at100 [0x66#8, 0xF7#8, 0xD0#8] [(0, 0x12340000)] (flagsOf 0b1011))
      [(0, 0x1234FFFF)] (flagsOf 0b1011) 0x103 = true := by decide

/-- Vector M1: `MOV.b r3, #0x7F`. -/
theorem test_vector_M1 :
    stepGives (at100 [0xB3#8, 0x7F#8] [(3, 0xAABBCCDD)] (flagsOf 0b1010))
      [(3, 0xAABBCC7F)] (flagsOf 0b1010) 0x102 = true := by decide

/-- Vector M2: `MOV.w r2, #0xBEEF`. -/
theorem test_vector_M2 :
    stepGives (at100 [0x66#8, 0xBA#8, 0xEF#8, 0xBE#8] [(2, 0x11112222)] (flagsOf 0b1010))
      [(2, 0x1111BEEF)] (flagsOf 0b1010) 0x104 = true := by decide

/-- Vector M4: `MOV.b [r3], #0x99`. -/
theorem test_vector_M4 :
    stepGives (at100 [0xC6#8, 0x03#8, 0x99#8] [(3, 0x2000)] (flagsOf 0b1010) 0x11111111)
      [(3, 0x2000)] (flagsOf 0b1010) 0x103 0x11111199 = true := by decide

/-- Vector M5: `MOV.d [0x2004], #0xDEADBEEF`. -/
theorem test_vector_M5 :
    stepGives (at100 [0xC7#8, 0x05#8, 0x04#8, 0x20#8, 0x00#8, 0x00#8, 0xEF#8, 0xBE#8, 0xAD#8, 0xDE#8] []
      (flagsOf 0b1010))
      [] (flagsOf 0b1010) 0x10A 0x00000000 0xDEADBEEF = true := by decide

/-- Vector M7: `MOV.d r1, r2 (other direction opcode)`. -/
theorem test_vector_M7 :
    stepGives (at100 [0x8B#8, 0xCA#8] [(1, 0x11111111), (2, 0x22222222)] (flagsOf 0b1010))
      [(1, 0x22222222), (2, 0x22222222)] (flagsOf 0b1010) 0x102 = true := by decide

/-- Vector M8: `MOV.w [r3], r1`. -/
theorem test_vector_M8 :
    stepGives (at100 [0x66#8, 0x89#8, 0x0B#8] [(1, 0xAAAA1234), (3, 0x2000)] (flagsOf 0b1010) 0xFFFFFFFF)
      [(1, 0xAAAA1234), (3, 0x2000)] (flagsOf 0b1010) 0x103 0xFFFF1234 = true := by decide

/-- Vector M9: `MOV.b r1, [r3]`. -/
theorem test_vector_M9 :
    stepGives (at100 [0x8A#8, 0x0B#8] [(1, 0xCCCCCCCC), (3, 0x2000)] (flagsOf 0b1010) 0x12345678)
      [(1, 0xCCCCCC78), (3, 0x2000)] (flagsOf 0b1010) 0x102 0x12345678 = true := by decide

/-- Vector M10: `MOV.b r0, @0x2000`. -/
theorem test_vector_M10 :
    stepGives (at100 [0xA0#8, 0x00#8, 0x20#8, 0x00#8, 0x00#8] [(0, 0xFFFFFFFF)] (flagsOf 0b1010) 0x12345678)
      [(0, 0xFFFFFF78)] (flagsOf 0b1010) 0x105 0x12345678 = true := by decide

/-- Vector M11: `MOV.w r0, @0x2001`. -/
theorem test_vector_M11 :
    stepGives (at100 [0x66#8, 0xA1#8, 0x01#8, 0x20#8, 0x00#8, 0x00#8] [(0, 0xFFFFFFFF)] (flagsOf 0b1010) 0x12345678)
      [(0, 0xFFFF3456)] (flagsOf 0b1010) 0x106 0x12345678 = true := by decide

/-- Vector M12: `MOV.d @0x2004, r0`. -/
theorem test_vector_M12 :
    stepGives (at100 [0xA3#8, 0x04#8, 0x20#8, 0x00#8, 0x00#8] [(0, 0x12340000)]
      (flagsOf 0b1010) 0x00000000 0xFFFFFFFF)
      [(0, 0x12340000)] (flagsOf 0b1010) 0x105 0x00000000 0x12340000 = true := by decide

/-- Vector M13: `MOV.b @0x2005, r0`. -/
theorem test_vector_M13 :
    stepGives (at100 [0xA2#8, 0x05#8, 0x20#8, 0x00#8, 0x00#8] [(0, 0x123400AB)]
      (flagsOf 0b1010) 0x00000000 0xFFFFFFFF)
      [(0, 0x123400AB)] (flagsOf 0b1010) 0x105 0x00000000 0xFFFFABFF = true := by decide

/-- Vector M14: `MOV.d r3, [r3]`. -/
theorem test_vector_M14 :
    stepGives (at100 [0x8B#8, 0x1B#8] [(3, 0x2000)] (flagsOf 0b1010) 0xCAFEF00D)
      [(3, 0xCAFEF00D)] (flagsOf 0b1010) 0x102 0xCAFEF00D = true := by decide

/-- Vector M15: `MOV.b r4, #0x55`. -/
theorem test_vector_M15 :
    stepGives (at100 [0xB4#8, 0x55#8] [(4, 0x11223344), (0, 0x99999999)] (flagsOf 0b1010))
      [(4, 0x11223355), (0, 0x99999999)] (flagsOf 0b1010) 0x102 = true := by decide

/-- Vector M16: `MOV.d [r3+r1*4-8], r2 (M16 with its operand at 0x2004)`. -/
theorem test_vector_M16 :
    stepGives (at100 [0x89#8, 0x54#8, 0x8B#8, 0xF8#8] [(1, 0x3), (2, 0xBADF00D), (3, 0x2000)] (flagsOf 0b1010))
      [(1, 0x3), (2, 0xBADF00D), (3, 0x2000)] (flagsOf 0b1010) 0x104 0x00000000 0x0BADF00D = true := by decide

/-- Vector M17: `MOV.w [r3], #0xBEEF, unaligned`. -/
theorem test_vector_M17 :
    stepGives (at100 [0x66#8, 0xC7#8, 0x03#8, 0xEF#8, 0xBE#8] [(3, 0x2001)] (flagsOf 0b1010))
      [(3, 0x2001)] (flagsOf 0b1010) 0x105 0x00BEEF00 = true := by decide

/-- Vector J1: `JMP.b +5`. -/
theorem test_vector_J1 :
    stepGives (at100 [0xEB#8, 0x05#8] [] (flagsOf 0b1010))
      [] (flagsOf 0b1010) 0x107 = true := by decide

/-- Vector J3: `JMP.b -2`. -/
theorem test_vector_J3 :
    stepGives (at100 [0xEB#8, 0xFE#8] [] (flagsOf 0b1010))
      [] (flagsOf 0b1010) 0x100 = true := by decide

/-- Vector J7: `JMP.d +0x7FFFFFFF`. -/
theorem test_vector_J7 :
    stepGives (at100 [0xE9#8, 0xFF#8, 0xFF#8, 0xFF#8, 0x7F#8] [] (flagsOf 0b1010))
      [] (flagsOf 0b1010) 0x80000104 = true := by decide

/-- Vector J8: `JMP.b -128`. -/
theorem test_vector_J8 :
    stepGives (at100 [0xEB#8, 0x80#8] [] (flagsOf 0b1010))
      [] (flagsOf 0b1010) 0x82 = true := by decide

/-- Vectors J5, J6 and J9: a 16-bit displacement, and targets that wrap or pass 16 bits. -/
theorem test_vector_J5_J6_J9 :
    [(0x10000, [0x66#8, 0xE9#8, 0x00#8, 0x80#8], 0x8004), (0xFFFFFFFD, [0xEB#8, 0x7F#8], 0x7E),
      (0xFFFE, [0x66#8, 0xE9#8, 0xFF#8, 0x7F#8], 0x18001)].all (fun (a, code, target) =>
      nextAnd (step { State.reset with ip := BitVec.ofNat 32 a, mem := Memory.setBytes [] a code }) fun t =>
        t.ip = BitVec.ofNat 32 target) = true := by decide

/-- P4 at 0x416: a store into the instruction after it is in memory for the next fetch (R60). -/
theorem test_store_into_code :
    nextAnd (step (at100 [0x88#8, 0x05#8, 0x07#8, 0x01#8, 0x00#8, 0x00#8, 0x04#8, 0x00#8] [(0, 0x00050020)]
      ⟨true, true, true, true⟩)) (fun t =>
        t.fetchInstr == .ok (.addAccImm8 false 0x20#8, 2) && t.ip = 0x106#32) = true := by decide

/-- The memory that a fault vector has: `MEM_SIZE = 0x3000`. -/
def small (ip : Word) (code : List Byte) (r0 : Nat) : State :=
  { State.reset with
    regs := regsOf [(0, r0)], ip := ip, memSize := 0x3000, mem := Memory.setBytes [] ip.toNat code }

/-- Vectors F2, F3, F4, F9 and F10: DecodeError with the address and the opcode byte. -/
theorem test_decode_errors :
    [([0x80#8, 0xD0#8, 0x01#8], 0x80#8), ([0x90#8], 0x90#8), ([0x66#8, 0x66#8, 0x05#8, 0x01#8, 0x00#8], 0x66#8),
      ([0xC6#8, 0xC8#8, 0x01#8], 0xC6#8), ([0xF6#8, 0xE0#8], 0xF6#8)].all (fun (code, b) =>
      faults (step (small 0x100#32 code 0)) (.decodeError 0x100#32 b)) = true := by decide

/-- Vectors F5, F6, F7 and F11: MemoryFault with the address, the length and the kind. -/
theorem test_memory_faults :
    faults (step (small 0x100#32 [0xA1#8, 0xFE#8, 0x2F#8, 0x00#8, 0x00#8] 0))
      (.memoryFault 0x2FFE#32 4 .read) = true ∧
    faults (step (small 0x100#32 [0xA3#8, 0xFD#8, 0x2F#8, 0x00#8, 0x00#8] 0))
      (.memoryFault 0x2FFD#32 4 .write) = true ∧
    faults (step (small 0x2FFD#32 [0xB8#8, 0x01#8, 0x02#8] 0)) (.memoryFault 0x2FFE#32 4 .read) = true ∧
    faults (step (small 0x100#32 [0x81#8, 0x00#8, 0xFF#8, 0xFF#8, 0xFF#8, 0xFF#8] 0x2FFE))
      (.memoryFault 0x2FFE#32 4 .read) = true := by decide

/-- Vector F8: the JMP commits; the fetch at its target faults. -/
theorem test_vector_F8 :
    nextAnd (step (small 0x2FF0#32 [0xEB#8, 0x7E#8] 0)) (fun t =>
      t.ip = 0x3070#32 && faults (step t) (.memoryFault 0x3070#32 1 .read)) = true := by decide

/-- A word of the table placed at reset runs as the next step. -/
theorem test_withFetchWord :
    nextAnd (step (State.reset.withFetchWord 16 0x047F)) (fun t => t.reg 0 = 0x7F#32 && t.ip = 2#32) = true ∧
    (State.reset.withFetchWord 16 0x047F).mem.wf = true := by decide

/-! ### The handler protocol: vectors of section 2.7 -/

/-- The state in which the dispatcher has consumed an opcode byte at 0x100. -/
def at101 (bytes : List Byte) (regs : List (Nat × Nat)) (f : Flags) (m0 : Nat := 0) : State :=
  { at100 (0x00#8 :: bytes) regs f m0 with ip := 0x101#32 }

/-- Whether a reply is MATCHED with a property of the state. -/
def matchedAnd (r : Reply) (p : State → Bool) : Bool :=
  match r with
  | .matched t => p t
  | .notMatched _ => false
  | .fault _ => false

/-- Vectors K1, K3, K4, K6, K8 and K11: NOT_MATCHED, with nothing written and ip where it was. -/
theorem test_aborts :
    [(Handler.aluRmImm (.arith .sub) .w1 .w1, [0xE1#8, 0x0F#8]), (.aluRmImm (.bitw .xor) .w1 .w1, [0xE1#8, 0x0F#8]),
      (.movRmImm .w1, [0x4B#8, 0x01#8, 0x99#8]), (.unaryRm .not .w1, [0xD8#8]),
      (.aluRmImm (.arith .add) .w4 .w4,
        [0xAC#8, 0x8B#8, 0x00#8, 0x01#8, 0x00#8, 0x00#8, 0x01#8, 0x00#8, 0x00#8, 0x00#8]),
      (.aluRmImm (.bitw .test) .w1 .w1, [0xD0#8])].all (fun (h, bytes) =>
      let s := at101 bytes [(0, 1), (1, 0xAB), (3, 0x2000)] ⟨true, true, true, true⟩
      decide (invoke decRef h.command s = .notMatched s)) = true := by decide

/-- Vector K2. -/
theorem test_vector_K2 :
    matchedAnd (invoke decRef (Handler.aluRmImm (.bitw .and) .w1 .w1).command
      (at101 [0xE1#8, 0x0F#8] [(1, 0xAB)] ⟨true, true, true, true⟩)) (fun t =>
      t.reg 1 = 0x0B#32 && t.flags = ⟨false, false, false, false⟩ && t.ip = 0x103#32) = true := by decide

/-- Vector K9, with its operand at 0x2000: six addressing bytes, then the immediate. -/
theorem test_vector_K9 :
    matchedAnd (invoke decRef (Handler.aluRmImm (.arith .sub) .w4 .w4).command
      (at101 [0xAC#8, 0x8B#8, 0xF0#8, 0xFF#8, 0xFF#8, 0xFF#8, 0x01#8, 0x00#8, 0x00#8, 0x00#8] [(1, 4), (3, 0x2000)]
        ⟨false, false, false, false⟩ 7)) (fun t =>
      t.memRead 0x2000#32 4 == .ok 6 && t.flags = ⟨false, false, true, false⟩ && t.ip = 0x10B#32) = true := by decide

/-- Vector K10: TEST with the register in the destination position. -/
theorem test_vector_K10 :
    matchedAnd (invoke decRef (Handler.aluRRm (.bitw .test) .w1).command
      (at101 [0xC8#8] [(0, 0xF0), (1, 0x0F)] ⟨true, false, true, true⟩)) (fun t =>
      t.regs = regsOf [(0, 0xF0), (1, 0x0F)] && t.flags = ⟨false, true, false, false⟩ && t.ip = 0x102#32) = true := by
  decide

/-- Vector K12: CMP with a 1-byte immediate at width 4. -/
theorem test_vector_K12 :
    matchedAnd (invoke decRef (Handler.aluRmImm (.arith .cmp) .w4 .w1).command
      (at101 [0xF9#8, 0xFF#8] [(1, 0xFFFFFFFF)] ⟨false, false, false, false⟩)) (fun t =>
      t.reg 1 = 0xFFFFFFFF#32 && t.flags = ⟨false, true, true, false⟩ && t.ip = 0x103#32) = true := by decide

/-- Vectors F1, F12 and F13, and R71 for `op` 9 on a form that ignores it: illegal commands. -/
theorem test_illegal_commands :
    [(⟨6, 0, 3, 1, 0⟩ : Command), ⟨0, 0, 1, 2, 0⟩, ⟨10, 0, 1, 1, 0⟩, ⟨11, 9, 4, 4, 0⟩].all (fun c =>
      decide (invoke decRef c State.reset = .fault (.invariantViolation c))) = true := by decide

/-- The state machine runs K2 to its reply in ten ticks. -/
theorem test_drive_K2 :
    ((at101 [0xE1#8, 0x0F#8] [(1, 0xAB)] ⟨true, true, true, true⟩).accept
        (Handler.aluRmImm (.bitw .and) .w1 .w1).command).bind (drive decRef 10) =
      some (invoke decRef (Handler.aluRmImm (.bitw .and) .w1 .w1).command
        (at101 [0xE1#8, 0x0F#8] [(1, 0xAB)] ⟨true, true, true, true⟩)) := by decide

/-! ### The reference decoder: vectors E1 to E15 -/

/-- The registers of section 2.8, and bytes at ip. -/
def decAt (bytes : List Byte) : State :=
  at101 bytes [(0, 0x10), (1, 0x20), (2, 0x30), (3, 0x2000), (4, 0x40), (5, 0x5000), (6, 0x60), (7, 0x70)]
    ⟨false, false, false, false⟩

/-- Vectors E1 to E8. -/
theorem test_vectors_E1_E8 :
    ([([0xC8#8], .w1, .reg 0 .w1, 1, 1),
      ([0x0B#8], .w4, .mem 0x2000#32 .w4, 1, 1),
      ([0x05#8, 0x00#8, 0x20#8, 0x00#8, 0x00#8], .w4, .mem 0x2000#32 .w4, 0, 5),
      ([0x43#8, 0xFC#8], .w4, .mem 0x1FFC#32 .w4, 0, 2),
      ([0x83#8, 0x00#8, 0x01#8, 0x00#8, 0x00#8], .w4, .mem 0x2100#32 .w4, 0, 5),
      ([0x04#8, 0x8B#8], .w4, .mem 0x2080#32 .w4, 0, 2),
      ([0x44#8, 0x8B#8, 0xFC#8], .w2, .mem 0x207C#32 .w2, 0, 3),
      ([0x84#8, 0x8B#8, 0x00#8, 0x01#8, 0x00#8, 0x00#8], .w4, .mem 0x2180#32 .w4, 0, 6)] : List (List Byte × Width × RM × Reg × Nat)).all
      (fun (bytes, w, rm, r, n) => decide (decRef w w (decAt bytes) = .ok (rm, ⟨r, w⟩, n))) = true := by decide

/-- Vectors E9 to E15. -/
theorem test_vectors_E9_E15 :
    ([([0x04#8, 0x25#8, 0x00#8, 0x30#8, 0x00#8, 0x00#8], .w4, .mem 0x3000#32 .w4, 0, 6),
      ([0x04#8, 0x8D#8, 0x00#8, 0x30#8, 0x00#8, 0x00#8], .w4, .mem 0x3080#32 .w4, 0, 6),
      ([0x04#8, 0x24#8], .w4, .mem 0x40#32 .w4, 0, 2),
      ([0x45#8, 0x00#8], .w4, .mem 0x5000#32 .w4, 0, 2),
      ([0x44#8, 0x25#8, 0x10#8], .w4, .mem 0x5010#32 .w4, 0, 3),
      ([0xFF#8], .w1, .reg 7 .w1, 7, 1),
      ([0x04#8, 0xE3#8], .w4, .mem 0x2000#32 .w4, 0, 2)] : List (List Byte × Width × RM × Reg × Nat)).all
      (fun (bytes, w, rm, r, n) => decide (decRef w w (decAt bytes) = .ok (rm, ⟨r, w⟩, n))) = true := by decide

/-! ### The width unit: vectors X3 to X11 -/

/-- Truncation and the sign bit of unmasked sums (X3 to X5, X11). -/
theorem test_width_unit :
    trunc .w1 0x100 = 0 ∧ trunc .w4 0x1FFFFFFFE = 0xFFFFFFFE ∧ signbit .w1 0x100 = false ∧ signbit .w1 0x180 = true ∧
    signbit .w4 0x17FFFFFFF = false ∧ iszero .w1 (trunc .w1 0x100) = true ∧ sext .w1 .w2 0xF0 = 0xFFF0 ∧
    sext .w2 .w4 0x8000 = 0xFFFF8000 ∧ signed .w2 0x8000 = -32768 ∧ signed .w4 0xFFFFFFFB = -5 := by decide

/-! ### Witnesses: states and operands that meet the hypotheses of each statement -/

/-- A well-formed instruction of eleven bytes, and one with the two addressing forms that R76 and R77 single out. -/
theorem witness_DecodeEncodeRoundTrip :
    Instr.wf (.movRmImmv (.sib 3 4 5 (.disp32 0xFFFFFFFF#32)) (.dword 0x80000000#32)) = true ∧
    Instr.wf (.notRmv .v2 (.sibAbs 0 4 0#32)) = true ∧ Instr.wf (.addRmR8 true (.base 5 (.disp8 0x80#8)) 7) = true := by
  decide

theorem witness_EncodeDecodeRoundTrip :
    decode [0x66#8, 0x83#8, 0x44#8, 0x8B#8, 0xFC#8, 0x80#8, 0x90#8] =
      .ok (.addRmSImm8 .v2 (.sib 2 1 3 (.disp8 0xFC#8)) 0x80#8, 6) := by decide

/-- A state at 0x100 with MOV.b r3, #0x7F there. -/
def movState : State := at100 [0xB3#8, 0x7F#8] [(3, 0xAABBCCDD)] ⟨true, false, true, false⟩

theorem witness_StepRunsDecodedInstr :
    Running movState ∧ decodeFrom movState.fetchSource = .ok (.movRImm8 false 3 0x7F#8, 2) := by
  unfold Running State.ended; decide

/-- The instruction ends at the last byte that `MEM_SIZE` admits. -/
def lastBytes : State := small 0x2FFE#32 [0xB3#8, 0x7F#8] 0

theorem witness_StepRunsStoredInstr :
    Instr.wf (.movRImm8 false 3 0x7F#8) = true ∧ Running lastBytes ∧ lastBytes.memSize ≤ Config.addressSpace ∧
    lastBytes.ip.toNat + (encode (.movRImm8 false 3 0x7F#8)).length = lastBytes.memSize ∧
    ∀ (k : Nat) (hk : k < (encode (.movRImm8 false 3 0x7F#8)).length),
      lastBytes.byteAt (lastBytes.ip.toNat + k) = (encode (.movRImm8 false 3 0x7F#8))[k] := by
  refine ⟨by decide, by unfold Running State.ended; decide, by decide, by decide, ?_⟩
  decide

theorem witness_StepIsDispatch : movState.engine.phase = .idle ∧ State.reset.engine.phase = .idle := by decide

theorem witness_HaltAddrEndsRun :
    (small 0xFFFFFFFF#32 [] 0).engine.phase = .idle ∧ (small 0xFFFFFFFF#32 [] 0).ended := by decide

/-- A state in FAULT, for the second clause. -/
def faulted : State := movState.enterFault (.decodeError 0x100#32 0x90#8)

theorem witness_FaultIsTerminal :
    faults (step (small 0x100#32 [0x90#8] 0)) (.decodeError 0x100#32 0x90#8) = true ∧
    faulted.engine.phase = .fault (.decodeError 0x100#32 0x90#8) := by decide

/-- `[r3]` is the last four bytes below `MEM_SIZE = 0x3000`, `[r1]` the last two and `[r2]` the last one; register 5 is
a register operand with its sign bit set. -/
def ends : State :=
  { State.reset with
    regs := regsOf [(1, 0x2FFE), (2, 0x2FFF), (3, 0x2FFC), (5, 0x80000000)]
    ip := 0x100#32
    memSize := 0x3000
    mem := Memory.setBytes [] 0x2FFC (leBytes 4 0x80FF7F01) }

theorem witness_StepKeepsInv :
    ends.Inv ∧ nextAnd (step { ends with mem := Memory.setBytes [] 0x100 [0xB0#8, 0x01#8] }) (fun _ => true) = true ∧
    State.Inv { ends with mem := Memory.setBytes [] 0x100 [0xB0#8, 0x01#8] } := by decide

theorem witness_RegWriteKeepsUpperBytes : 0xFF ≤ Width.w1.max ∧ 0xFFFF ≤ Width.w2.max ∧ 0xFFFFFFFF ≤ Width.w4.max := by
  decide

/-- Both clauses at the boundary: the last admitted access and the first refused one, for each width. -/
theorem witness_MemReadIsLittleEndian :
    ends.memAdmit 0x2FFF#32 1 = true ∧ ends.memAdmit 0x3000#32 1 = false ∧ ends.memAdmit 0x2FFE#32 2 = true ∧
    ends.memAdmit 0x2FFF#32 2 = false ∧ ends.memAdmit 0x2FFC#32 4 = true ∧ ends.memAdmit 0x2FFD#32 4 = false ∧
    State.reset.memAdmit 0xFFFFFFFC#32 4 = true ∧ State.reset.memAdmit 0xFFFFFFFD#32 4 = false := by decide

theorem witness_MemWriteStoresBytes :
    ends.mem.wf = true ∧ 0xFF < 2 ^ (8 * 1) ∧ 0xFFFF < 2 ^ (8 * 2) ∧ 0xFFFFFFFF < 2 ^ (8 * 4) ∧
    ends.memAdmit 0x2FFC#32 4 = true ∧ ends.memAdmit 0x2FFD#32 4 = false := by decide

theorem witness_NarrowReadAfterWideWrite :
    ends.Inv ∧ 0xFFFFFFFF < 2 ^ 32 ∧ ∃ t, ends.memWrite 0x2FFC#32 4 0xFFFFFFFF = .ok t :=
  ⟨by decide, by decide, _, State.memWrite_admitted _ (by decide)⟩

theorem witness_SignExtensionOfImmediate :
    Width.w1.bytes ≤ Width.w4.bytes ∧ 0xFF ≤ Width.w1.max ∧ Width.w2.bytes ≤ Width.w2.bytes ∧ 0x8000 ≤ Width.w2.max ∧
    (⟨6, 0, 1, 2, 0⟩ : Command).w.val < (⟨6, 0, 1, 2, 0⟩ : Command).iw.val ∧
    (⟨7, 0, 2, 4, 0⟩ : Command).w.val < (⟨7, 0, 2, 4, 0⟩ : Command).iw.val := by decide

/-- The corners `a = MAX(w)`, `b = 0` and `a = b`. -/
theorem witness_ArithClosedForms :
    0xFF ≤ Width.w1.max ∧ 0 ≤ Width.w1.max ∧ 0xFFFFFFFF ≤ Width.w4.max ∧ 0x8000 ≤ Width.w2.max := by decide

theorem witness_BitwiseFunction : 0xF0 ≤ Width.w1.max ∧ 0x0F ≤ Width.w1.max ∧ 0xFFFFFFFF ≤ Width.w4.max := by decide

theorem witness_NotAndNegFunctions : 0 ≤ Width.w1.max ∧ 0x8000 ≤ Width.w2.max ∧ 0xFFFFFFFF ≤ Width.w4.max := by decide

/-- Bytes on which SUB aborts (vector K1). -/
def k1 : State := at101 [0xE1#8, 0x0F#8] [(1, 0xAB)] ⟨true, true, true, true⟩

theorem witness_RollbackInvariant :
    invoke decRef (Handler.aluRmImm (.arith .sub) .w1 .w1).command k1 = .notMatched k1 := by decide

/-- Each of the three forms aborts somewhere. -/
theorem witness_OnlyThreeFormsAbort :
    invoke decRef (Handler.movRmImm .w1).command k1 = .notMatched k1 ∧
    invoke decRef (Handler.aluRmImm (.bitw .xor) .w1 .w1).command k1 = .notMatched k1 ∧
    invoke decRef (Handler.unaryRm .neg .w1).command k1 = .notMatched k1 := by decide

/-- An addressed form with an extension that matches, one that does not, and one without an extension. -/
theorem witness_AbortIffExtensionDiffers :
    (Handler.aluRmImm (.bitw .and) .w1 .w1).addressed = true ∧ (Handler.movRmR .w1).addressed = true ∧
    decRef .w1 .w1 k1 = .ok (.reg 1 .w1, ⟨4, .w1⟩, 1) := by decide

/-- A form with addressing bytes, one without, and JMP. -/
theorem witness_CommitAdvancesPointer :
    matchedAnd ((Handler.aluRmImm (.bitw .and) .w1 .w1).run decRef k1) (fun _ => true) = true ∧
    matchedAnd ((Handler.movRImm .w1 0).run decRef k1) (fun _ => true) = true ∧
    matchedAnd ((Handler.jmpRel .w1).run decRef k1) (fun _ => true) = true := by decide

/-- Illegal commands on each ground, and a legal one. -/
theorem witness_IllegalCommandIsInvariantViolation :
    ¬ LegalCommand ⟨12, 0, 1, 1, 0⟩ ∧ ¬ LegalCommand ⟨0, 0, 3, 1, 0⟩ ∧ ¬ LegalCommand ⟨0, 0, 4, 0, 0⟩ ∧
    ¬ LegalCommand ⟨7, 0, 1, 2, 0⟩ ∧ ¬ LegalCommand ⟨6, 7, 1, 1, 0⟩ ∧ ¬ LegalCommand ⟨10, 6, 1, 1, 0⟩ ∧
    ¬ LegalCommand ⟨11, 9, 4, 4, 7⟩ ∧ LegalCommand ⟨11, 8, 4, 4, 7⟩ ∧ LegalCommand ⟨10, 8, 4, 1, 0⟩ := by
  refine ⟨?_, ?_, ?_, ?_, ?_, ?_, ?_, ?_, ?_⟩ <;> unfold LegalCommand <;> decide

/-- A candidate that matches, and a list in another order. -/
theorem witness_CandidateOrderIrrelevant :
    (Handler.aluRmImm (.bitw .and) .w1 .w1).command ∈ opmapDefault 0x80 .w4 ∧
    matchedAnd (invoke decRef (Handler.aluRmImm (.bitw .and) .w1 .w1).command k1) (fun _ => true) = true ∧
    (opmapDefault 0x80 .w4).reverse.Perm (opmapDefault 0x80 .w4) := ⟨by decide, by decide, List.reverse_perm _⟩

/-- A decoder that reads no byte of memory: it always answers register 0 and one byte. -/
def oneByte : AddrDecoder := fun wRM wR _ => .ok (.reg 0 wRM, ⟨0, wR⟩, 1)

theorem oneByte_contract : oneByte.Contract := by
  refine ⟨fun wRM wR s rm r n h => ?_, fun _ _ _ _ _ _ _ _ => rfl, fun _ _ _ _ _ _ _ _ _ h => h⟩
  cases h
  exact ⟨rfl, rfl, Nat.le_refl 1⟩

theorem witness_SequencerRefinesHandler : oneByte.Described ∧ oneByte.Repeatable ∧ k1.engine = Engine.idle :=
  ⟨oneByte_contract.1, oneByte_contract.2.1, by decide⟩

/-- Memories that differ in the seventh byte only; six bytes consumed, and a first, second and third read that cannot be made. -/
theorem witness_DecRefMeetsContract :
    (State.memSize (decAt [0x84#8, 0x8B#8, 0, 1#8, 0, 0, 0x55#8]) ≤ Config.addressSpace ∧
      SameAtIp 6 (decAt [0x84#8, 0x8B#8, 0, 1#8, 0, 0, 0x55#8]) (decAt [0x84#8, 0x8B#8, 0, 1#8, 0, 0, 0x66#8]) ∧
      (decAt [0x84#8, 0x8B#8, 0, 1#8, 0, 0, 0x55#8]).mem ≠ (decAt [0x84#8, 0x8B#8, 0, 1#8, 0, 0, 0x66#8]).mem) ∧
    decRef .w4 .w4 (decAt [0x84#8, 0x8B#8, 0x00#8, 0x01#8, 0x00#8, 0x00#8]) = .ok (.mem 0x2180#32 .w4, ⟨0, .w4⟩, 6) ∧
    decRef .w4 .w4 (small 0x3000#32 [] 0) = .error (.memoryFault 0x3000#32 1 .read) ∧
    decRef .w4 .w4 (small 0x2FFF#32 [0x04#8] 0) = .error (.memoryFault 0x3000#32 1 .read) ∧
    decRef .w4 .w4 (small 0x2FFE#32 [0x84#8, 0x8B#8] 0) = .error (.memoryFault 0x3000#32 4 .read) := by
  unfold SameAtIp
  decide

/-- Every row of the table: the first byte, the SIB byte and the displacement are readable. -/
theorem witness_DecRefTable :
    (decAt [0xFF#8]).memRead 0x101#32 1 = .ok (3 * 64 + 7 * 8 + 7) ∧
    (decAt [0x0B#8]).memRead 0x101#32 1 = .ok (0 * 64 + 1 * 8 + 3) ∧
    ((decAt [0x05#8, 0, 0x20#8, 0, 0]).memRead 0x101#32 1 = .ok (0 * 64 + 0 * 8 + 5) ∧
      (decAt [0x05#8, 0, 0x20#8, 0, 0]).memRead 0x102#32 4 = .ok 0x2000) ∧
    ((decAt [0x43#8, 0xFC#8]).memRead 0x101#32 1 = .ok (1 * 64 + 0 * 8 + 3) ∧
      (decAt [0x43#8, 0xFC#8]).memRead 0x102#32 1 = .ok 0xFC) ∧
    ((decAt [0x83#8, 0, 1, 0, 0]).memRead 0x101#32 1 = .ok (2 * 64 + 0 * 8 + 3) ∧
      (decAt [0x83#8, 0, 1, 0, 0]).memRead 0x102#32 4 = .ok 0x100) := by decide

theorem witness_DecRefTable_sib :
    ((decAt [0x04#8, 0x24#8]).memRead 0x101#32 1 = .ok (0 * 64 + 0 * 8 + 4) ∧
      (decAt [0x04#8, 0x24#8]).memRead 0x102#32 1 = .ok (0 * 64 + 4 * 8 + 4)) ∧
    ((decAt [0x04#8, 0x25#8, 0, 0x30#8, 0, 0]).memRead 0x102#32 1 = .ok (0 * 64 + 4 * 8 + 5) ∧
      (decAt [0x04#8, 0x25#8, 0, 0x30#8, 0, 0]).memRead 0x103#32 4 = .ok 0x3000) ∧
    ((decAt [0x44#8, 0x8B#8, 0xFC#8]).memRead 0x101#32 1 = .ok (1 * 64 + 0 * 8 + 4) ∧
      (decAt [0x44#8, 0x8B#8, 0xFC#8]).memRead 0x102#32 1 = .ok (2 * 64 + 1 * 8 + 3) ∧
      (decAt [0x44#8, 0x8B#8, 0xFC#8]).memRead 0x103#32 1 = .ok 0xFC) ∧
    ((decAt [0x84#8, 0x8B#8, 0, 1, 0, 0]).memRead 0x101#32 1 = .ok (2 * 64 + 0 * 8 + 4) ∧
      (decAt [0x84#8, 0x8B#8, 0, 1, 0, 0]).memRead 0x103#32 4 = .ok 0x100) := by decide

/-- Byte 0x90 without and with the prefix. -/
theorem witness_UnlistedOpcodeIsDecodeError :
    Running (small 0x100#32 [0x90#8] 0) ∧ (small 0x100#32 [0x90#8] 0).memRead 0x100#32 1 = .ok 0x90 ∧
    opmapDefault 0x90 .w4 = [] ∧ opmapDefault 0x90 .w2 = [] ∧
    Running (small 0x100#32 [0x66#8, 0x90#8] 0) ∧ (small 0x100#32 [0x66#8, 0x90#8] 0).memRead 0x100#32 1 = .ok 0x66 ∧
    (small 0x100#32 [0x66#8, 0x90#8] 0).memRead 0x101#32 1 = .ok 0x90 := by unfold Running State.ended; decide

/-- One reserved value of each of the three groups, and the prefixed form. -/
theorem witness_ReservedExtensionIsDecodeError :
    Reserved 0x80 2 ∧ Reserved 0xC7 7 ∧ Reserved 0xF6 4 ∧ Running (small 0x100#32 [0x80#8, 0xD0#8] 0) ∧
    (small 0x100#32 [0x80#8, 0xD0#8] 0).memRead 0x100#32 1 = .ok 0x80 ∧
    decRef .w1 .w1 ((small 0x100#32 [0x80#8, 0xD0#8] 0).advance 1) = .ok (.reg 0 .w1, ⟨2, .w1⟩, 1) ∧
    Running (small 0x100#32 [0x66#8, 0xF7#8, 0xE0#8] 0) ∧ Reserved 0xF7 4 ∧
    (small 0x100#32 [0x66#8, 0xF7#8, 0xE0#8] 0).memRead 0x100#32 1 = .ok 0x66 ∧
    (small 0x100#32 [0x66#8, 0xF7#8, 0xE0#8] 0).memRead 0x101#32 1 = .ok 0xF7 ∧
    decRef .w1 .w1 ((small 0x100#32 [0x66#8, 0xF7#8, 0xE0#8] 0).advance 2) = .ok (.reg 0 .w1, ⟨4, .w1⟩, 1) := by
  refine ⟨?_, ?_, ?_, ?_, ?_, ?_, ?_, ?_, ?_, ?_, ?_⟩ <;> first | decide | (unfold Reserved; decide) | (unfold Running; decide)

theorem witness_StepFaultsAreNamed :
    (small 0x100#32 [0x90#8] 0).engine.phase = .idle ∧ (small 0x3000#32 [] 0).engine.phase = .idle := by decide

/-- The last admitted operand, and the first refused one of a form that reads and of one that only writes. -/
theorem witness_ExecCompletesIffOperandAdmitted :
    operandAdmitted (.addRmRv .v4 (.base 3 .none) 0) ends = true ∧
    operandAdmitted (.addRmRv .v4 (.base 3 (.disp8 1#8)) 0) ends = false ∧
    operandAdmitted (.movRmRv .v4 (.base 3 (.disp8 1#8)) 0) ends = false ∧
    operandAdmitted (.jmpRel8 false 0#8) ends = true := by decide

theorem witness_OnlyJmpWritesIp :
    familyOf (.movRImm8 false 3 0x7F#8) ≠ .jmp ∧
    nextAnd (exec (.movRImm8 false 3 0x7F#8) ends) (fun _ => true) = true := by decide

/-- An instruction of each family completes. -/
theorem witness_FlagWriteTable :
    [(Instr.movRImm8 false 3 0x7F#8, Family.mov), (.cmpAccImm8 false 0#8, .arith), (.testAccImm8 false 0#8, .bitw),
      (.notRm8 false (.reg 0), .not), (.negRm8 false (.reg 0), .neg), (.jmpRel8 false 0#8, .jmp)].all (fun (i, f) =>
      familyOf i = f && nextAnd (exec i ends) (fun _ => true)) = true := by decide

theorem witness_FlagsAreNeverRead :
    nextAnd (exec (.addAccImm8 false 1#8) ends) (fun _ => true) = true ∧
    faults (exec (.addRmRv .v4 (.base 3 (.disp8 1#8)) 0) ends) (.memoryFault 0x2FFD#32 4 .read) = true := by decide

/-- Operands of each width that end at the last admitted byte, and a register operand. -/
abbrev ReadableOperands : Prop :=
  ends.Inv ∧ ends.readRM (resolve (.base 2 .none) .w1 ends) = .ok 0x80 ∧
  ends.readRM (resolve (.base 1 .none) .w2 ends) = .ok 0x80FF ∧
  ends.readRM (resolve (.base 3 .none) .w4 ends) = .ok 0x80FF7F01 ∧
  ends.readRM (resolve (.reg 5) .w4 ends) = .ok 0x80000000

theorem witness_AddRmImm : ReadableOperands := by decide
theorem witness_AddRmReg : ReadableOperands := witness_AddRmImm
theorem witness_AddRegRm : ReadableOperands := witness_AddRmImm
theorem witness_SubRmImm : ReadableOperands := witness_AddRmImm
theorem witness_SubRmReg : ReadableOperands := witness_AddRmImm
theorem witness_SubRegRm : ReadableOperands := witness_AddRmImm
theorem witness_CmpWritesOnlyFlags : ReadableOperands := witness_AddRmImm
theorem witness_BitwiseRmImm : ReadableOperands := witness_AddRmImm
theorem witness_BitwiseRmReg : ReadableOperands := witness_AddRmImm
theorem witness_BitwiseRegRm : ReadableOperands := witness_AddRmImm
theorem witness_TestWritesOnlyFlags : ReadableOperands := witness_AddRmImm
theorem witness_NotComplementsOperand : ReadableOperands := witness_AddRmImm
theorem witness_NegNegatesOperand : ReadableOperands := witness_AddRmImm
theorem witness_MovRegRm : ReadableOperands := witness_AddRmImm

theorem witness_TestRegisterDestinationCommand : oneByte.Described := oneByte_contract.1

/-- Writable operands of each width that end at the last admitted byte, and a register. -/
theorem witness_MovRmImm :
    ends.Inv ∧ ends.admits (resolve (.base 2 .none) .w1 ends) = true ∧
    ends.admits (resolve (.base 1 .none) .w2 ends) = true ∧ ends.admits (resolve (.base 3 .none) .w4 ends) = true ∧
    ends.admits (resolve (.reg 5) .w4 ends) = true := by decide

theorem witness_MovRmReg :
    ends.Inv ∧ ends.admits (resolve (.base 2 .none) .w1 ends) = true ∧
    ends.admits (resolve (.base 1 .none) .w2 ends) = true ∧ ends.admits (resolve (.base 3 .none) .w4 ends) = true :=
  ⟨witness_MovRmImm.1, witness_MovRmImm.2.1, witness_MovRmImm.2.2.1, witness_MovRmImm.2.2.2.1⟩

theorem witness_MovAccMoffs :
    ends.memRead 0x2FFF#32 1 = .ok 0x80 ∧ ends.memRead 0x2FFE#32 VSize.v2.width.bytes = .ok 0x80FF ∧
    ends.memRead 0x2FFC#32 VSize.v4.width.bytes = .ok 0x80FF7F01 := by decide

theorem witness_MovMoffsAcc :
    ends.Inv ∧ ends.memAdmit 0x2FFF#32 1 = true ∧ ends.memAdmit 0x2FFE#32 VSize.v2.width.bytes = true ∧
    ends.memAdmit 0x2FFC#32 VSize.v4.width.bytes = true := by decide

end Sys2Proof.Tests
end

section
/-! SUPPORT. Proofs of the statements of spec/10_state.md. Every instruction runs S5 to S8 of one handler form (R72), so
that a rule over all 78 instructions is a rule over the twelve forms. -/

namespace Sys2Proof

/-- The byte string of a pattern reads only that many bytes of it (R52). -/
theorem leBytes_mod (n v : Nat) : leBytes n (v % 2 ^ (8 * n)) = leBytes n v := by
  have h := leBytes_leNat (leBytes n v)
  rwa [leBytes_length, leNat_leBytes] at h

end Sys2Proof

namespace Sys2Proof.Machine

/-! ### Registers (R22, R23) -/

/-- The upper `n` bits of a register with the low `m` bits of a value below them, as a number (R23). -/
theorem toNat_extractLsb'_append {n m : Nat} (x : Word) (v : Nat) (h : m + n = 32) :
    (x.extractLsb' m n ++ BitVec.ofNat m v).toNat = x.toNat / 2 ^ m * 2 ^ m + v % 2 ^ m := by
  have hupper : x.toNat / 2 ^ m < 2 ^ n := Nat.div_lt_of_lt_mul (by rw [← Nat.pow_add, h]; exact x.isLt)
  rw [BitVec.toNat_append, BitVec.extractLsb'_toNat, BitVec.toNat_ofNat, Nat.shiftRight_eq_div_pow,
    Nat.mod_eq_of_lt hupper, ← Nat.shiftLeft_add_eq_or_of_lt (Nat.mod_lt v (Nat.two_pow_pos m)), Nat.shiftLeft_eq]

/-! ### An instruction as a handler's commit -/

/-- The handler that an instruction runs, with what S2 and S4 have read for it (R72): the addressing term, the value of
the register field and the immediate. Register 0 and the number 0 stand where the form has none. -/
structure HandlerRun where
  handler : Handler
  am : Addressing
  reg : Reg
  imm : Nat

/-- The handler run of each row of the opcode table (R81). -/
def handlerRun (i : Instr) : HandlerRun :=
  match i with
  | .addRmR8 _ am r => ⟨.aluRmR (.arith .add) .w1, am, r, 0⟩
  | .addRmRv v am r => ⟨.aluRmR (.arith .add) v.width, am, r, 0⟩
  | .addRRm8 _ r am => ⟨.aluRRm (.arith .add) .w1, am, r, 0⟩
  | .addRRmv v r am => ⟨.aluRRm (.arith .add) v.width, am, r, 0⟩
  | .addAccImm8 _ imm => ⟨.aluAccImm (.arith .add) .w1 .w1, .reg 0, 0, imm.toNat⟩
  | .addAccImmv imm => ⟨.aluAccImm (.arith .add) imm.size.width imm.size.width, .reg 0, 0, imm.toNat⟩
  | .addRmImm8 _ am imm => ⟨.aluRmImm (.arith .add) .w1 .w1, am, 0, imm.toNat⟩
  | .addRmImmv am imm => ⟨.aluRmImm (.arith .add) imm.size.width imm.size.width, am, 0, imm.toNat⟩
  | .addRmSImm8 v am imm => ⟨.aluRmImm (.arith .add) v.width .w1, am, 0, imm.toNat⟩
  | .orRmR8 _ am r => ⟨.aluRmR (.bitw .or) .w1, am, r, 0⟩
  | .orRmRv v am r => ⟨.aluRmR (.bitw .or) v.width, am, r, 0⟩
  | .orRRm8 _ r am => ⟨.aluRRm (.bitw .or) .w1, am, r, 0⟩
  | .orRRmv v r am => ⟨.aluRRm (.bitw .or) v.width, am, r, 0⟩
  | .orAccImm8 _ imm => ⟨.aluAccImm (.bitw .or) .w1 .w1, .reg 0, 0, imm.toNat⟩
  | .orAccImmv imm => ⟨.aluAccImm (.bitw .or) imm.size.width imm.size.width, .reg 0, 0, imm.toNat⟩
  | .orRmImm8 _ am imm => ⟨.aluRmImm (.bitw .or) .w1 .w1, am, 0, imm.toNat⟩
  | .orRmImmv am imm => ⟨.aluRmImm (.bitw .or) imm.size.width imm.size.width, am, 0, imm.toNat⟩
  | .orRmSImm8 v am imm => ⟨.aluRmImm (.bitw .or) v.width .w1, am, 0, imm.toNat⟩
  | .andRmR8 _ am r => ⟨.aluRmR (.bitw .and) .w1, am, r, 0⟩
  | .andRmRv v am r => ⟨.aluRmR (.bitw .and) v.width, am, r, 0⟩
  | .andRRm8 _ r am => ⟨.aluRRm (.bitw .and) .w1, am, r, 0⟩
  | .andRRmv v r am => ⟨.aluRRm (.bitw .and) v.width, am, r, 0⟩
  | .andAccImm8 _ imm => ⟨.aluAccImm (.bitw .and) .w1 .w1, .reg 0, 0, imm.toNat⟩
  | .andAccImmv imm => ⟨.aluAccImm (.bitw .and) imm.size.width imm.size.width, .reg 0, 0, imm.toNat⟩
  | .andRmImm8 _ am imm => ⟨.aluRmImm (.bitw .and) .w1 .w1, am, 0, imm.toNat⟩
  | .andRmImmv am imm => ⟨.aluRmImm (.bitw .and) imm.size.width imm.size.width, am, 0, imm.toNat⟩
  | .andRmSImm8 v am imm => ⟨.aluRmImm (.bitw .and) v.width .w1, am, 0, imm.toNat⟩
  | .subRmR8 _ am r => ⟨.aluRmR (.arith .sub) .w1, am, r, 0⟩
  | .subRmRv v am r => ⟨.aluRmR (.arith .sub) v.width, am, r, 0⟩
  | .subRRm8 _ r am => ⟨.aluRRm (.arith .sub) .w1, am, r, 0⟩
  | .subRRmv v r am => ⟨.aluRRm (.arith .sub) v.width, am, r, 0⟩
  | .subAccImm8 _ imm => ⟨.aluAccImm (.arith .sub) .w1 .w1, .reg 0, 0, imm.toNat⟩
  | .subAccImmv imm => ⟨.aluAccImm (.arith .sub) imm.size.width imm.size.width, .reg 0, 0, imm.toNat⟩
  | .subRmImm8 _ am imm => ⟨.aluRmImm (.arith .sub) .w1 .w1, am, 0, imm.toNat⟩
  | .subRmImmv am imm => ⟨.aluRmImm (.arith .sub) imm.size.width imm.size.width, am, 0, imm.toNat⟩
  | .subRmSImm8 v am imm => ⟨.aluRmImm (.arith .sub) v.width .w1, am, 0, imm.toNat⟩
  | .xorRmR8 _ am r => ⟨.aluRmR (.bitw .xor) .w1, am, r, 0⟩
  | .xorRmRv v am r => ⟨.aluRmR (.bitw .xor) v.width, am, r, 0⟩
  | .xorRRm8 _ r am => ⟨.aluRRm (.bitw .xor) .w1, am, r, 0⟩
  | .xorRRmv v r am => ⟨.aluRRm (.bitw .xor) v.width, am, r, 0⟩
  | .xorAccImm8 _ imm => ⟨.aluAccImm (.bitw .xor) .w1 .w1, .reg 0, 0, imm.toNat⟩
  | .xorAccImmv imm => ⟨.aluAccImm (.bitw .xor) imm.size.width imm.size.width, .reg 0, 0, imm.toNat⟩
  | .xorRmImm8 _ am imm => ⟨.aluRmImm (.bitw .xor) .w1 .w1, am, 0, imm.toNat⟩
  | .xorRmImmv am imm => ⟨.aluRmImm (.bitw .xor) imm.size.width imm.size.width, am, 0, imm.toNat⟩
  | .xorRmSImm8 v am imm => ⟨.aluRmImm (.bitw .xor) v.width .w1, am, 0, imm.toNat⟩
  | .cmpRmR8 _ am r => ⟨.aluRmR (.arith .cmp) .w1, am, r, 0⟩
  | .cmpRmRv v am r => ⟨.aluRmR (.arith .cmp) v.width, am, r, 0⟩
  | .cmpRRm8 _ r am => ⟨.aluRRm (.arith .cmp) .w1, am, r, 0⟩
  | .cmpRRmv v r am => ⟨.aluRRm (.arith .cmp) v.width, am, r, 0⟩
  | .cmpAccImm8 _ imm => ⟨.aluAccImm (.arith .cmp) .w1 .w1, .reg 0, 0, imm.toNat⟩
  | .cmpAccImmv imm => ⟨.aluAccImm (.arith .cmp) imm.size.width imm.size.width, .reg 0, 0, imm.toNat⟩
  | .cmpRmImm8 _ am imm => ⟨.aluRmImm (.arith .cmp) .w1 .w1, am, 0, imm.toNat⟩
  | .cmpRmImmv am imm => ⟨.aluRmImm (.arith .cmp) imm.size.width imm.size.width, am, 0, imm.toNat⟩
  | .cmpRmSImm8 v am imm => ⟨.aluRmImm (.arith .cmp) v.width .w1, am, 0, imm.toNat⟩
  | .testRmR8 _ am r => ⟨.aluRmR (.bitw .test) .w1, am, r, 0⟩
  | .testRmRv v am r => ⟨.aluRmR (.bitw .test) v.width, am, r, 0⟩
  | .testAccImm8 _ imm => ⟨.aluAccImm (.bitw .test) .w1 .w1, .reg 0, 0, imm.toNat⟩
  | .testAccImmv imm => ⟨.aluAccImm (.bitw .test) imm.size.width imm.size.width, .reg 0, 0, imm.toNat⟩
  | .testRmImm8 _ am imm => ⟨.aluRmImm (.bitw .test) .w1 .w1, am, 0, imm.toNat⟩
  | .testRmImmv am imm => ⟨.aluRmImm (.bitw .test) imm.size.width imm.size.width, am, 0, imm.toNat⟩
  | .notRm8 _ am => ⟨.unaryRm .not .w1, am, 0, 0⟩
  | .notRmv v am => ⟨.unaryRm .not v.width, am, 0, 0⟩
  | .negRm8 _ am => ⟨.unaryRm .neg .w1, am, 0, 0⟩
  | .negRmv v am => ⟨.unaryRm .neg v.width, am, 0, 0⟩
  | .movRmR8 _ am r => ⟨.movRmR .w1, am, r, 0⟩
  | .movRmRv v am r => ⟨.movRmR v.width, am, r, 0⟩
  | .movRRm8 _ r am => ⟨.movRRm .w1, am, r, 0⟩
  | .movRRmv v r am => ⟨.movRRm v.width, am, r, 0⟩
  | .movAccMoffs8 _ addr => ⟨.movAccMoffs .w1, .reg 0, 0, addr.toNat⟩
  | .movAccMoffsv v addr => ⟨.movAccMoffs v.width, .reg 0, 0, addr.toNat⟩
  | .movMoffsAcc8 _ addr => ⟨.movMoffsAcc .w1, .reg 0, 0, addr.toNat⟩
  | .movMoffsAccv v addr => ⟨.movMoffsAcc v.width, .reg 0, 0, addr.toNat⟩
  | .movRImm8 _ r imm => ⟨.movRImm .w1 r, .reg 0, 0, imm.toNat⟩
  | .movRImmv r imm => ⟨.movRImm imm.size.width r, .reg 0, 0, imm.toNat⟩
  | .movRmImm8 _ am imm => ⟨.movRmImm .w1, am, 0, imm.toNat⟩
  | .movRmImmv am imm => ⟨.movRmImm imm.size.width, am, 0, imm.toNat⟩
  | .jmpRelv disp => ⟨.jmpRel disp.size.width, .reg 0, 0, disp.toNat⟩
  | .jmpRel8 _ disp => ⟨.jmpRel .w1, .reg 0, 0, disp.toNat⟩

/-- S5 to S8 of the run on a state whose `ip` is past the instruction (R140). -/
def HandlerRun.commit (c : HandlerRun) (s : State) : Except Fault State :=
  c.handler.commit (resolve c.am c.handler.width s) c.reg c.imm s

/-- An instruction means what its handler commits. -/
theorem exec_eq_commit (i : Instr) (s : State) : exec i s = outcome ((handlerRun i).commit s) := by
  cases i with
  | movAccMoffs8 _ addr | movAccMoffsv _ addr | movMoffsAcc8 _ addr | movMoffsAccv _ addr =>
    simp only [handlerRun, HandlerRun.commit, Handler.commit, BitVec.ofNat_toNat, BitVec.setWidth_eq]
    rfl
  | _ => rfl

theorem exec_next_iff {i : Instr} {s t : State} : exec i s = .next t ↔ (handlerRun i).commit s = .ok t := by
  rw [exec_eq_commit]
  exact ⟨outcome_next, fun h => by rw [h]; rfl⟩

theorem exec_fault_iff {i : Instr} {s : State} {e : Fault} :
    exec i s = .fault e ↔ (handlerRun i).commit s = .error e := by
  rw [exec_eq_commit]
  exact ⟨outcome_fault, fun h => by rw [h]; rfl⟩

/-! ### Families of handlers (R29) -/

/-- The family of a two-operand operation. -/
def AluOp.family : AluOp → Family
  | .arith _ => .arith
  | .bitw _ => .bitw

/-- The family of a unary operation. -/
def UnOp.family : UnOp → Family
  | .not => .not
  | .neg => .neg

/-- The family of a handler. -/
def Handler.family : Handler → Family
  | .movRImm _ _ | .movRmImm _ | .movRmR _ | .movRRm _ | .movAccMoffs _ | .movMoffsAcc _ => .mov
  | .aluAccImm op _ _ | .aluRmImm op _ _ | .aluRmR op _ | .aluRRm op _ => op.family
  | .unaryRm op _ => op.family
  | .jmpRel _ => .jmp

/-- An instruction is of its handler's family. -/
theorem handlerRun_family (i : Instr) : (handlerRun i).handler.family = familyOf i := by
  cases i <;> rfl

/-- R29's table: the flags after an instruction of the family, from the flags `old` before it and the flags `new` that
its result makes. -/
def Family.flagsAfter (fam : Family) (old new : Flags) : Flags :=
  match fam with
  | .mov | .not | .jmp => old
  | .arith => ⟨new.sf, new.zf, new.of, old.cf⟩
  | .bitw => ⟨new.sf, new.zf, false, false⟩
  | .neg => ⟨old.sf, old.zf, old.of, new.cf⟩

@[simp] theorem aluFlags_flagsAfter (op : AluOp) (w : Width) (tmp : Nat) (f g : Flags) :
    op.family.flagsAfter f (aluFlags op w tmp g) = aluFlags op w tmp f := by
  cases op <;> rfl

@[simp] theorem unaryFlags_flagsAfter (op : UnOp) (a : Nat) (f g : Flags) :
    op.family.flagsAfter f (unaryFlags op a g) = unaryFlags op a f := by
  cases op <;> rfl

/-- Each flag after an instruction is the same whatever it was before, or the one that it was (R31). -/
theorem Family.flagsAfter_same_or_kept (fam : Family) (f g new : Flags) :
    let u := fam.flagsAfter f new
    let t := fam.flagsAfter g new
    (u.sf = t.sf ∨ (u.sf = f.sf ∧ t.sf = g.sf)) ∧ (u.zf = t.zf ∨ (u.zf = f.zf ∧ t.zf = g.zf)) ∧
    (u.of = t.of ∨ (u.of = f.of ∧ t.of = g.of)) ∧ (u.cf = t.cf ∨ (u.cf = f.cf ∧ t.cf = g.cf)) := by
  cases fam <;> simp [Family.flagsAfter]

/-! ### Writes from other flags and another `ip` -/

@[simp] theorem State.setFlags_self (s : State) : s.setFlags s.flags = s := rfl

@[simp] theorem State.setFlags_setFlags (s : State) (f g : Flags) : (s.setFlags f).setFlags g = s.setFlags g := rfl

@[simp] theorem State.setIp_setFlags (s : State) (p : Word) (f : Flags) :
    (s.setIp p).setFlags f = (s.setFlags f).setIp p := rfl

theorem State.writeRM_setFlags_setIp (s : State) (f : Flags) (p : Word) (rm : RM) (v : Nat) :
    ((s.setFlags f).setIp p).writeRM rm v = (fun t => (t.setFlags f).setIp p) <$> s.writeRM rm v := by
  cases rm with
  | reg i w => rfl
  | mem addr w =>
    simp only [State.writeRM, State.memWrite, State.memAdmit_setIp, State.memAdmit_setFlags, apply_ite (Functor.map _)]
    rfl

@[simp] theorem resolve_setFlags (am : Addressing) (w : Width) (s : State) (f : Flags) :
    resolve am w (s.setFlags f) = resolve am w s := by
  cases am <;> rfl

@[simp] theorem resolve_setIp (am : Addressing) (w : Width) (s : State) (p : Word) :
    resolve am w (s.setIp p) = resolve am w s := by
  cases am <;> rfl

/-! ### Commits from other flags and another `ip` -/

theorem aluCommitReg_setFlags_setIp (op : AluOp) (w : Width) (i : Reg) (a b : Nat) (s : State) (f : Flags) (p : Word) :
    aluCommitReg op w i a b ((s.setFlags f).setIp p) =
      ((aluCommitReg op w i a b s).setFlags (op.family.flagsAfter f (aluCommitReg op w i a b s).flags)).setIp p := by
  rw [(aluCommitReg_spec op w i a b s).1, aluFlags_flagsAfter]
  unfold aluCommitReg
  cases op.writesBack <;> rfl

theorem aluCommitRM_setFlags_setIp (op : AluOp) (rm : RM) (a b : Nat) (s : State) (f : Flags) (p : Word) :
    aluCommitRM op rm a b ((s.setFlags f).setIp p) =
      (fun t => (t.setFlags (op.family.flagsAfter f t.flags)).setIp p) <$> aluCommitRM op rm a b s := by
  unfold aluCommitRM
  cases op.writesBack with
  | true => simp [State.writeRM_setFlags_setIp]
  | false => simp [bind, Except.bind, Functor.map, Except.map]

/-- Every form but JMP reads neither the flags nor `ip`: from other flags and another `ip` it commits the same, with the
flags of R29's table and that `ip` (R27, R30). -/
theorem Handler.commit_setFlags_setIp {h : Handler} (hj : ∀ w, h ≠ .jmpRel w) (rm : RM) (r : Reg) (imm : Nat) (s : State)
    (f : Flags) (p : Word) :
    h.commit rm r imm ((s.setFlags f).setIp p) =
      (fun t => (t.setFlags (h.family.flagsAfter f t.flags)).setIp p) <$> h.commit rm r imm s := by
  cases h with
  | movRImm w r3 => rfl
  | movRmImm w => exact s.writeRM_setFlags_setIp f p rm imm
  | movRmR w => exact s.writeRM_setFlags_setIp f p rm _
  | movRRm w =>
    simp only [Handler.commit, formMovRRm, State.readRM_setIp, State.readRM_setFlags, map_bind]
    rfl
  | movAccMoffs w =>
    simp only [Handler.commit, formMovAccMoffs, State.memRead_setIp, State.memRead_setFlags, map_bind]
    rfl
  | movMoffsAcc w => exact s.writeRM_setFlags_setIp f p (.mem _ w) _
  | aluAccImm op w iw => exact congrArg Except.ok (aluCommitReg_setFlags_setIp ..)
  | aluRmImm op w iw =>
    simp only [Handler.commit, formAluRmImm, State.readRM_setIp, State.readRM_setFlags, map_bind,
      aluCommitRM_setFlags_setIp]
    rfl
  | aluRmR op w =>
    simp only [Handler.commit, formAluRmR, State.readRM_setIp, State.readRM_setFlags, map_bind,
      aluCommitRM_setFlags_setIp]
    rfl
  | aluRRm op w =>
    simp only [Handler.commit, formAluRRm, State.readRM_setIp, State.readRM_setFlags, map_bind,
      aluCommitReg_setFlags_setIp]
    rfl
  | unaryRm op w =>
    simp only [Handler.commit, formUnaryRm, State.readRM_setIp, State.readRM_setFlags, map_bind,
      State.writeRM_setFlags_setIp, bind_map_left]
    simp [Handler.family]
  | jmpRel w => exact absurd rfl (hj w)

/-- Every form commits the same from other flags, with the flags of R29's table (R30). -/
theorem Handler.commit_setFlags (h : Handler) (rm : RM) (r : Reg) (imm : Nat) (s : State) (f : Flags) :
    h.commit rm r imm (s.setFlags f) = (fun t => t.setFlags (h.family.flagsAfter f t.flags)) <$> h.commit rm r imm s := by
  by_cases hj : ∃ w, h = .jmpRel w
  · obtain ⟨w, rfl⟩ := hj
    rfl
  · have hj : ∀ w, h ≠ .jmpRel w := not_exists.mp hj
    have hc := Handler.commit_setFlags_setIp hj rm r imm s f s.ip
    cases hs : h.commit rm r imm s with
    | error e => exact hc.trans (by rw [hs]; rfl)
    | ok t =>
      have hip : t.ip = s.ip := (Handler.commit_keeps hj hs).1
      exact hc.trans (by rw [hs, ← hip]; rfl)

theorem HandlerRun.commit_setFlags_setIp {c : HandlerRun} (hj : ∀ w, c.handler ≠ .jmpRel w) (s : State) (f : Flags)
    (p : Word) :
    c.commit ((s.setFlags f).setIp p) =
      (fun t => (t.setFlags (c.handler.family.flagsAfter f t.flags)).setIp p) <$> c.commit s := by
  simp only [HandlerRun.commit, resolve_setIp, resolve_setFlags, Handler.commit_setFlags_setIp hj]

theorem HandlerRun.commit_setFlags (c : HandlerRun) (s : State) (f : Flags) :
    c.commit (s.setFlags f) = (fun t => t.setFlags (c.handler.family.flagsAfter f t.flags)) <$> c.commit s := by
  simp only [HandlerRun.commit, resolve_setFlags, Handler.commit_setFlags]

/-! ### Instructions from other flags and another `ip` -/

theorem exec_setFlags_next {i : Instr} {s t : State} (h : exec i s = .next t) (f : Flags) :
    exec i (s.setFlags f) = .next (t.setFlags ((familyOf i).flagsAfter f t.flags)) := by
  rw [exec_next_iff] at *
  rw [HandlerRun.commit_setFlags, h, handlerRun_family]
  rfl

theorem exec_setFlags_fault {i : Instr} {s : State} {e : Fault} (h : exec i s = .fault e) (f : Flags) :
    exec i (s.setFlags f) = .fault e := by
  rw [exec_fault_iff] at *
  rw [HandlerRun.commit_setFlags, h]
  rfl

/-- The flags that an instruction leaves are those of R29's table. -/
theorem exec_next_flags {i : Instr} {s t : State} (h : exec i s = .next t) :
    (familyOf i).flagsAfter s.flags t.flags = t.flags := by
  have hself := exec_setFlags_next h s.flags
  rw [State.setFlags_self, h, Host.Outcome.next.injEq] at hself
  exact (congrArg State.flags hself).symm

theorem handlerRun_ne_jmpRel {i : Instr} (hi : familyOf i ≠ .jmp) (w : Width) : (handlerRun i).handler ≠ .jmpRel w := by
  intro h
  rw [← handlerRun_family, h] at hi
  exact hi rfl

theorem exec_next_ip {i : Instr} {s t : State} (hi : familyOf i ≠ .jmp) (h : exec i s = .next t) : t.ip = s.ip :=
  (Handler.commit_keeps (handlerRun_ne_jmpRel hi) (exec_next_iff.mp h)).1

theorem exec_setIp_next {i : Instr} {s t : State} (hi : familyOf i ≠ .jmp) (h : exec i s = .next t) (p : Word) :
    exec i (s.setIp p) = .next (t.setIp p) := by
  rw [exec_next_iff]
  calc (handlerRun i).commit (s.setIp p)
    _ = (fun u => (u.setFlags ((handlerRun i).handler.family.flagsAfter s.flags u.flags)).setIp p) <$>
          (handlerRun i).commit s := HandlerRun.commit_setFlags_setIp (handlerRun_ne_jmpRel hi) s s.flags p
    _ = .ok ((t.setFlags ((familyOf i).flagsAfter s.flags t.flags)).setIp p) := by
      rw [exec_next_iff.mp h, handlerRun_family]
      rfl
    _ = .ok (t.setIp p) := by rw [exec_next_flags h, State.setFlags_self]

end Sys2Proof.Machine

open Sys2Proof Sys2Proof.Machine

/-- Settles O34: the flags of every outcome are those of R29's table, from the flags before as from any others. -/
theorem flagWriteTable : Obligations.FlagWriteTable := by
  unfold Obligations.FlagWriteTable
  intro i s t h
  have hf := exec_next_flags h
  refine ⟨?_, ?_, ?_, ?_, fun f => ⟨_, exec_setFlags_next h f, ?_, ?_, ?_⟩⟩
  · rintro (hi | hi | hi) <;> rw [← hf, hi] <;> rfl
  · intro hi
    rw [← hf, hi]
    rfl
  · intro hi
    rw [← hf, hi]
    exact ⟨rfl, rfl⟩
  · intro hi
    rw [← hf, hi]
    exact ⟨rfl, rfl, rfl⟩
  · intro hi
    rw [hi]
    exact ⟨rfl, rfl, rfl⟩
  · intro hi
    rw [hi] at hf ⊢
    exact hf
  · intro hi
    rw [hi]
    rfl

/-- Settles O35: from other flags an instruction has the same outcome but for the flags, which are those of R29's table
in both runs. -/
theorem flagsAreNeverRead : Obligations.FlagsAreNeverRead := by
  unfold Obligations.FlagsAreNeverRead
  intro i s f
  refine ⟨fun e h => exec_setFlags_fault h f, fun t h => ⟨_, exec_setFlags_next h f, rfl, ?_⟩⟩
  have hflags := (familyOf i).flagsAfter_same_or_kept f s.flags t.flags
  rwa [exec_next_flags h] at hflags

/-- Settles O33: every form but JMP keeps `ip` and commits the same from another one. -/
theorem onlyJmpWritesIp : Obligations.OnlyJmpWritesIp := by
  unfold Obligations.OnlyJmpWritesIp
  intro i s t hi h
  exact ⟨exec_next_ip hi h, exec_setIp_next hi h⟩

/-- Settles O9: nothing is listed in memory, and the engine is the idle one. -/
theorem resetSatisfiesInv : Obligations.ResetSatisfiesInv := by
  unfold Obligations.ResetSatisfiesInv
  exact ⟨⟨Memory.wf_nil, fun c hc => absurd hc List.not_mem_nil, le_refl _, rfl⟩, rfl, rfl, rfl⟩

/-- Settles O11: a read is the register modulo `MOD(w)`, and its byte string sees no more than that. -/
theorem regReadIsLowBytes : Obligations.RegReadIsLowBytes := by
  unfold Obligations.RegReadIsLowBytes
  intro s i
  refine ⟨Nat.mod_eq_of_lt (s.reg i).isLt, ?_, ?_, fun w => ⟨Nat.le_sub_one_of_lt (s.regRead_lt i w), ?_⟩⟩
  · simp [State.regRead, Width.mod, Width.bytes]
  · simp [State.regRead, Width.mod, Width.bytes]
  · exact leBytes_mod w.bytes (s.reg i).toNat

/-- Settles O12: the register after a write, compared as a number. -/
theorem regWriteKeepsUpperBytes : Obligations.RegWriteKeepsUpperBytes := by
  unfold Obligations.RegWriteKeepsUpperBytes
  intro s i w v _
  refine ⟨BitVec.eq_of_toNat_eq ?_, fun j hj => State.setReg_reg_ne s _ hj, fun a => rfl, rfl, rfl, rfl, rfl, rfl⟩
  rw [State.regWrite_toNat]
  cases w with
  | w1 => exact (toNat_extractLsb'_append (m := 8) (n := 24) (s.reg i) v rfl).symm
  | w2 => exact (toNat_extractLsb'_append (m := 16) (n := 16) (s.reg i) v rfl).symm
  | w4 =>
    have hupper : (s.reg i).toNat / Width.w4.mod = 0 := Nat.div_eq_of_lt (s.reg i).isLt
    rw [hupper, Nat.zero_mul, Nat.zero_add, BitVec.toNat_ofNat]
    rfl

end

section
/-! SUPPORT. Proofs of the statements of spec/20_memory.md. A read inside the bytes of a store is read off the store's
pattern (R53), and a step changes memory only through a commit, which keeps the invariant. -/

namespace Sys2Proof

/-! ### Byte strings -/

/-- Bits `8k+7:8k` of a pattern are its byte `k` (R52). -/
theorem ofNat_bits_byte (v k : Nat) :
    BitVec.ofNat 8 (bits v (8 * k + 7) (8 * k)) = BitVec.ofNat 8 (v / 2 ^ (8 * k)) := by
  apply BitVec.eq_of_toNat_eq
  simp [bits]

end Sys2Proof

namespace Sys2Proof.Machine

/-- A little-endian read is the sum of its bytes, each at its weight (R51). -/
theorem Memory.leNat_getBytes (m : Memory) (a n : Nat) :
    leNat (m.getBytes a n) = ∑ k ∈ Finset.range n, (m.get (a + k)).toNat * 2 ^ (8 * k) := by
  induction n generalizing a with
  | zero => rfl
  | succ n ih =>
    rw [Memory.getBytes, leNat, ih, Finset.sum_range_succ', Finset.mul_sum, Nat.add_comm]
    congr 1
    · refine Finset.sum_congr rfl fun k _ => ?_
      rw [Nat.add_assoc, Nat.add_comm 1 k]
      ring
    · simp

/-- After a store of the `n` bytes of `v`, byte `k` of them stands at the `k`th address (R52). -/
theorem Memory.get_setBytes_leBytes {m : Memory} {n k : Nat} (a v : Nat) (h : m.wf = true) (hk : k < n) :
    (m.setBytes a (leBytes n v)).get (a + k) = BitVec.ofNat 8 (v / 2 ^ (8 * k)) := by
  rw [Memory.get_setBytes_inside m a k _ h (by rwa [leBytes_length]), leBytes_getElem]

/-- The `j` bytes from byte `k` of a store of `v` are those of `v` without its `k` low-order bytes (R53). -/
theorem Memory.getBytes_setBytes_within {m : Memory} {n k j : Nat} (a v : Nat) (h : m.wf = true) (hkj : k + j ≤ n) :
    (m.setBytes a (leBytes n v)).getBytes (a + k) j = leBytes j (v / 2 ^ (8 * k)) := by
  apply List.ext_getElem (by simp)
  intro i hi _
  rw [Memory.getBytes_length] at hi
  rw [Memory.getBytes_getElem, leBytes_getElem, Nat.add_assoc, Memory.get_setBytes_leBytes a v h (by omega),
    Nat.div_div_eq_div_mul, ← Nat.pow_add, ← Nat.mul_add]

/-! ### Reads inside a store -/

/-- A `j`-byte read from byte `k` of an `n`-byte store of `v` gives `v[8(k+j)-1:8k]` (R53). -/
theorem State.memRead_memWrite_within {s t : State} {addr b : Word} {n v k j : Nat} (hwf : s.mem.wf = true)
    (h : s.memWrite addr n v = .ok t) (hb : b.toNat = addr.toNat + k) (hkj : k + j ≤ n) :
    t.memRead b j = .ok (v / 2 ^ (8 * k) % 2 ^ (8 * j)) := by
  obtain ⟨ha, ht⟩ := State.memWrite_ok h
  have hadm : t.memAdmit b j = true := by
    simp only [State.memAdmit, decide_eq_true_eq, ht] at ha ⊢
    omega
  rw [State.memRead_admitted hadm, ht, hb, Memory.getBytes_setBytes_within _ _ hwf hkj, leNat_leBytes]

/-! ### What a step keeps -/

/-- S5 to S8 of every form, JMP among them, keep the launch parameters, the engine and the invariant (R142). -/
theorem Handler.commit_keeps_inv {h : Handler} {rm : RM} {r : Reg} {imm : Nat} {s t : State}
    (hc : h.commit rm r imm s = .ok t) : SameLaunch s t ∧ (s.Inv → t.Inv) := by
  cases h with
  | jmpRel w => cases hc; exact ⟨⟨rfl, rfl, rfl⟩, id⟩
  | _ => exact (Handler.commit_keeps (fun _ hw => by cases hw) hc).2

/-- An instruction that completes keeps the launch parameters, the engine and the invariant. -/
theorem exec_next_keeps_inv {i : Instr} {s t : State} (h : exec i s = .next t) : SameLaunch s t ∧ (s.Inv → t.Inv) :=
  Handler.commit_keeps_inv (exec_next_iff.mp h)

/-- A step that answers starts in IDLE, and stays in a state whose run is over or runs the instruction at `ip` (R84,
R296). -/
theorem step_next {s t : State} (h : step s = .next t) :
    s.engine.phase = .idle ∧
    ((s.ended ∧ t = s) ∨ (¬ s.ended ∧ ∃ i n, s.fetchInstr = .ok (i, n) ∧ exec i (s.advance n) = .next t)) := by
  unfold step at h
  split at h
  · cases h
  · next hidle =>
    refine ⟨hidle, ?_⟩
    split at h
    · next hend => cases h; exact .inl ⟨hend, rfl⟩
    · next hrun =>
      split at h
      · cases h
      · next i n hfetch => exact .inr ⟨hrun, i, n, hfetch, h⟩
  · cases h

end Sys2Proof.Machine

open Sys2Proof Sys2Proof.Machine

/-- Settles O10: a step stays in the state or runs one instruction from the state with another `ip`, which the invariant
does not see. -/
theorem stepKeepsInv : Obligations.StepKeepsInv := by
  unfold Obligations.StepKeepsInv
  intro s t hinv h
  obtain ⟨-, ⟨-, rfl⟩ | ⟨-, i, n, -, hexec⟩⟩ := step_next h
  · exact ⟨hinv, rfl, rfl⟩
  · obtain ⟨⟨hsize, hhalt, -⟩, hkeep⟩ := exec_next_keeps_inv hexec
    exact ⟨hkeep hinv, hsize, hhalt⟩

/-- Settles O13: the value of the bytes read is their weighted sum, whatever their number. -/
theorem memReadIsLittleEndian : Obligations.MemReadIsLittleEndian := by
  unfold Obligations.MemReadIsLittleEndian
  intro s addr n _
  refine ⟨fun ha => ?_, State.memRead_refused⟩
  rw [State.memRead_admitted ha, Memory.leNat_getBytes]
  rfl

/-- Settles O14: byte `k` of the pattern's byte string is its bits `8k+7:8k`, whatever the number of bytes. -/
theorem memWriteStoresBytes : Obligations.MemWriteStoresBytes := by
  unfold Obligations.MemWriteStoresBytes
  intro s addr n v _ _ hwf
  refine ⟨fun ha => ?_, State.memWrite_refused v⟩
  have hok := State.memWrite_admitted v ha
  obtain ⟨⟨-, houtside⟩, -⟩ := State.memWrite_wroteMem hwf hok
  refine ⟨_, hok, fun k hk => ?_, houtside, fun _ => rfl, rfl, rfl, rfl, rfl, rfl⟩
  rw [ofNat_bits_byte]
  exact Memory.get_setBytes_leBytes addr.toNat v hwf hk

/-- Settles O15: each read lies inside the store, whose addresses do not wrap below `MEM_SIZE`. -/
theorem narrowReadAfterWideWrite : Obligations.NarrowReadAfterWideWrite := by
  unfold Obligations.NarrowReadAfterWideWrite
  rintro s t addr v ⟨hwf, -, hsize, -⟩ hv h
  have hfits : addr.toNat + 4 ≤ 2 ^ 32 := (of_decide_eq_true (State.memWrite_ok h).1).trans hsize
  have h1 : (addr + 1#32).toNat = addr.toNat + 1 := by bv_omega
  have h3 : (addr + 3#32).toNat = addr.toNat + 3 := by bv_omega
  have hread {b : Word} {k j : Nat} := State.memRead_memWrite_within (b := b) (k := k) (j := j) hwf h
  have hfull := hread (b := addr) (k := 0) (j := 4) rfl (by decide)
  rw [Nat.pow_zero, Nat.div_one, Nat.mod_eq_of_lt hv] at hfull
  exact ⟨hfull, hread (k := 0) rfl (by decide), hread (k := 0) rfl (by decide), hread h1 (by decide),
    hread h3 (by decide)⟩

end

section
/-! SUPPORT. Reading the bytes of an instruction: what a byte source reads, and the addressing bytes in the
decoder and in the encoder (spec/30_encoding.md R76 to R78). -/

namespace Sys2Proof

/-! ### The fields of an addressing byte (R76, R77) -/

/-- The three fields put together are the byte. -/
theorem fields_bits {m : Nat} (h : m < 256) : bits m 7 6 * 64 + bits m 5 3 * 8 + bits m 2 0 = m := by
  simp only [bits]
  omega

/-- Each field is read back from the byte put together. -/
theorem bits_fields {hi mid lo : Nat} (hhi : hi < 4) (hmid : mid < 8) (hlo : lo < 8) :
    bits (hi * 64 + mid * 8 + lo) 7 6 = hi ∧ bits (hi * 64 + mid * 8 + lo) 5 3 = mid ∧
      bits (hi * 64 + mid * 8 + lo) 2 0 = lo := by
  simp only [bits]
  omega

theorem fields233_toNat {hi mid lo : Nat} (hhi : hi < 4) (hmid : mid < 8) (hlo : lo < 8) :
    (fields233 hi mid lo).toNat = hi * 64 + mid * 8 + lo := by
  rw [fields233, BitVec.toNat_ofNat]
  omega

/-- The addressing byte of the fields of `m` is `m`. -/
theorem fields233_bits {m : Nat} (h : m < 256) :
    fields233 (bits m 7 6) (bits m 5 3) (bits m 2 0) = BitVec.ofNat 8 m := by
  rw [fields233, fields_bits h]

theorem bits_hi_lt (v : Nat) : bits v 7 6 < 4 := Nat.mod_lt _ (by decide)

theorem bits_mid_lt (v : Nat) : bits v 5 3 < 8 := Nat.mod_lt _ (by decide)

theorem bits_lo_lt (v : Nat) : bits v 2 0 < 8 := Nat.mod_lt _ (by decide)

/-! ### What a byte source reads -/

/-- Each read answers a pattern of its own size. -/
def ByteSource.Bounded (src : ByteSource) : Prop := ∀ off n v, src off n = some v → v < 2 ^ (8 * n)

/-- The bytes `xs` stand at `off`: every read inside them answers them. -/
def ByteSource.Holds (src : ByteSource) (off : Nat) (xs : List Byte) : Prop :=
  ∀ k n, 0 < n → k + n ≤ xs.length → src (off + k) n = some (leNat ((xs.drop k).take n))

/-- `xs` is what reads answer that follow one another from `off` on. -/
inductive ByteSource.Reads (src : ByteSource) : Nat → List Byte → Prop where
  | nil (off : Nat) : ByteSource.Reads src off []
  | fetch {off n v : Nat} (h : fetch src off n = .ok v) : ByteSource.Reads src off (leBytes n v)
  | append {off : Nat} {xs ys : List Byte} (hx : ByteSource.Reads src off xs)
      (hy : ByteSource.Reads src (off + xs.length) ys) : ByteSource.Reads src off (xs ++ ys)

theorem fetch_ok_iff {src : ByteSource} {off n v : Nat} : fetch src off n = .ok v ↔ src off n = some v := by
  unfold fetch
  split <;> simp [*]

theorem fetch_error_iff {src : ByteSource} {off n : Nat} {e : DecodeStop} :
    fetch src off n = .error e ↔ src off n = none ∧ e = .unreadable off n := by
  unfold fetch
  split <;> simp [*, eq_comm]

theorem ByteSource.Bounded.fetch {src : ByteSource} (hsrc : src.Bounded) {off n v : Nat}
    (h : Sys2Proof.fetch src off n = .ok v) : v < 2 ^ (8 * n) :=
  hsrc off n v (fetch_ok_iff.mp h)

theorem ByteSource.Holds.fetch {src : ByteSource} {off : Nat} {xs : List Byte} (h : src.Holds off xs) (hxs : xs ≠ []) :
    Sys2Proof.fetch src off xs.length = .ok (leNat xs) := by
  have := h 0 xs.length (List.length_pos_iff.mpr hxs) (by omega)
  simpa [fetch_ok_iff] using this

theorem ByteSource.Holds.left {src : ByteSource} {off : Nat} {xs ys : List Byte} (h : src.Holds off (xs ++ ys)) :
    src.Holds off xs := by
  intro k n hn hk
  rw [h k n hn (by rw [List.length_append]; omega), List.drop_append_of_le_length (by omega),
    List.take_append_of_le_length (by rw [List.length_drop]; omega)]

theorem ByteSource.Holds.right {src : ByteSource} {off : Nat} {xs ys : List Byte} (h : src.Holds off (xs ++ ys)) :
    src.Holds (off + xs.length) ys := by
  intro k n hn hk
  have := h (xs.length + k) n hn (by rw [List.length_append]; omega)
  rwa [List.drop_length_add_append, ← Nat.add_assoc] at this

/-- A byte that stands at `off` is read there. -/
theorem ByteSource.Holds.fetch_head {src : ByteSource} {off : Nat} {b : Byte} {xs : List Byte}
    (h : src.Holds off (b :: xs)) : Sys2Proof.fetch src off 1 = .ok b.toNat := by
  simpa [leNat] using (ByteSource.Holds.left (xs := [b]) h).fetch (List.cons_ne_nil b [])

theorem ByteSource.Holds.tail {src : ByteSource} {off : Nat} {b : Byte} {xs : List Byte} (h : src.Holds off (b :: xs)) :
    src.Holds (off + 1) xs :=
  ByteSource.Holds.right (xs := [b]) h

/-- A pattern whose bytes stand at `off` is read there. -/
theorem ByteSource.Holds.fetch_leBytes {src : ByteSource} {off n v : Nat} (h : src.Holds off (leBytes n v)) (hn : 0 < n)
    (hv : v < 2 ^ (8 * n)) : Sys2Proof.fetch src off n = .ok v := by
  have := h.fetch (List.length_pos_iff.mp (by rwa [leBytes_length]))
  rwa [leBytes_length, leNat_leBytes, Nat.mod_eq_of_lt hv] at this

/-- A read of one byte, and what is read after it. -/
theorem ByteSource.Reads.cons {src : ByteSource} {off v : Nat} {xs : List Byte} (h : Sys2Proof.fetch src off 1 = .ok v)
    (hxs : src.Reads (off + 1) xs) : src.Reads off (BitVec.ofNat 8 v :: xs) :=
  .append (.fetch h) hxs

/-! ### A list of bytes as a source -/

theorem listSource_bounded (bs : List Byte) : (listSource bs).Bounded := by
  intro off n v h
  unfold listSource at h
  split at h
  · next hle =>
    cases h
    have := leNat_lt ((bs.drop off).take n)
    rwa [List.length_take, List.length_drop, Nat.min_eq_left (by omega)] at this
  · cases h

theorem listSource_holds (xs rest : List Byte) : (listSource (xs ++ rest)).Holds 0 xs := by
  intro k n _ hk
  unfold listSource
  rw [if_pos (by rw [List.length_append]; omega), Nat.zero_add, List.drop_append_of_le_length (by omega),
    List.take_append_of_le_length (by rw [List.length_drop]; omega)]

/-- What a list's reads answer stands in it. -/
theorem listSource_reads {bs xs : List Byte} {off : Nat} (h : (listSource bs).Reads off xs) : xs <+: bs.drop off := by
  induction h with
  | nil off => exact List.nil_prefix
  | @fetch off n v h =>
    rw [fetch_ok_iff] at h
    unfold listSource at h
    split at h
    · next hle =>
      cases h
      have hlen : ((bs.drop off).take n).length = n := by
        rw [List.length_take, List.length_drop]
        omega
      have hbytes := leBytes_leNat ((bs.drop off).take n)
      rw [hlen] at hbytes
      rw [hbytes]
      exact List.take_prefix _ _
    · cases h
  | append hx hy ihx ihy =>
    obtain ⟨t, ht⟩ := ihx
    rw [← List.drop_drop, ← ht, List.drop_left] at ihy
    rw [← ht]
    exact (List.prefix_append_right_inj _).mpr ihy

/-! ### The addressing bytes (R76 to R78) -/

/-- The two sources answer alike every read that ends at `len` or before. -/
def ByteSource.Agree (src src' : ByteSource) (len : Nat) : Prop := ∀ off n, off + n ≤ len → src off n = src' off n

theorem ByteSource.Agree.fetch {src src' : ByteSource} {len off n : Nat} (h : src.Agree src' len) (hn : off + n ≤ len) :
    Sys2Proof.fetch src off n = Sys2Proof.fetch src' off n := by
  rw [Sys2Proof.fetch, h off n hn, Sys2Proof.fetch]

/-- A displacement that was read: which one `mod` calls for, its bytes, and the offset after it; a source with the same
bytes gives the same. -/
theorem decodeDisp_ok {src : ByteSource} {mod off off' : Nat} {d : Disp} (h : decodeDisp src mod off = .ok (d, off')) :
    (mod < 3 → d.mod = mod) ∧ off' = off + d.bytes.length ∧ (src.Bounded → src.Reads off d.bytes) ∧
      ∀ src', src.Agree src' off' → decodeDisp src' mod off = .ok (d, off') := by
  match mod, h with
  | 0, h =>
    cases h
    exact ⟨fun _ => rfl, rfl, fun _ => .nil off, fun _ _ => rfl⟩
  | 1, h =>
    obtain ⟨v, hv, h⟩ := Machine.bind_ok h
    cases h
    refine ⟨fun _ => rfl, rfl, fun _ => .fetch hv, fun src' ha => ?_⟩
    simp [decodeDisp, ← ha.fetch (le_refl _), hv, bind, Except.bind]
  | k + 2, h =>
    obtain ⟨v, hv, h⟩ := Machine.bind_ok h
    cases h
    refine ⟨fun hk => ?_, by simp [Disp.bytes], fun hb => ?_, fun src' ha => ?_⟩
    · simp only [Disp.mod]
      omega
    · have hlt : v < 2 ^ 32 := hb.fetch hv
      rw [Disp.bytes, BitVec.toNat_ofNat, Nat.mod_eq_of_lt hlt]
      exact .fetch hv
    · simp [decodeDisp, ← ha.fetch (le_refl _), hv, bind, Except.bind]

theorem decodeDisp_of_holds {src : ByteSource} {off : Nat} {d : Disp} (h : src.Holds off d.bytes) :
    decodeDisp src d.mod off = .ok (d, off + d.bytes.length) := by
  cases d with
  | none => rfl
  | disp8 d => simp [decodeDisp, Disp.mod, Disp.bytes, h.fetch_head, bind, Except.bind]
  | disp32 d =>
    simp [decodeDisp, Disp.mod, Disp.bytes, h.fetch_leBytes (by decide) d.isLt, bind, Except.bind]

/-- The rows of R78: the addressing term, the `reg` field and the offset after it that the bytes at `off` stand for. -/
inductive AddressingAt (src : ByteSource) (off : Nat) : Addressing → Reg → Nat → Prop where
  | reg {m : Nat} (hm : fetch src off 1 = .ok m) (hmod : bits m 7 6 = 3) :
      AddressingAt src off (.reg (Fin.ofNat 8 (bits m 2 0))) (Fin.ofNat 8 (bits m 5 3)) (off + 1)
  | base {m off' : Nat} {d : Disp} (hm : fetch src off 1 = .ok m) (hmod : bits m 7 6 ≠ 3) (hrm : bits m 2 0 ≠ 4)
      (hnot : ¬ (bits m 7 6 = 0 ∧ bits m 2 0 = 5)) (hd : decodeDisp src (bits m 7 6) (off + 1) = .ok (d, off')) :
      AddressingAt src off (.base (Fin.ofNat 8 (bits m 2 0)) d) (Fin.ofNat 8 (bits m 5 3)) off'
  | abs {m d : Nat} (hm : fetch src off 1 = .ok m) (hmod : bits m 7 6 = 0) (hrm : bits m 2 0 = 5)
      (hd : fetch src (off + 1) 4 = .ok d) :
      AddressingAt src off (.abs (BitVec.ofNat 32 d)) (Fin.ofNat 8 (bits m 5 3)) (off + 5)
  | sib {m sb off' : Nat} {d : Disp} (hm : fetch src off 1 = .ok m) (hmod : bits m 7 6 ≠ 3) (hrm : bits m 2 0 = 4)
      (hsb : fetch src (off + 1) 1 = .ok sb) (hnot : ¬ (bits sb 2 0 = 5 ∧ bits m 7 6 = 0))
      (hd : decodeDisp src (bits m 7 6) (off + 2) = .ok (d, off')) :
      AddressingAt src off (.sib (Fin.ofNat 4 (bits sb 7 6)) (Fin.ofNat 8 (bits sb 5 3)) (Fin.ofNat 8 (bits sb 2 0)) d)
        (Fin.ofNat 8 (bits m 5 3)) off'
  | sibAbs {m sb d : Nat} (hm : fetch src off 1 = .ok m) (hmod : bits m 7 6 = 0) (hrm : bits m 2 0 = 4)
      (hsb : fetch src (off + 1) 1 = .ok sb) (hb : bits sb 2 0 = 5) (hd : fetch src (off + 2) 4 = .ok d) :
      AddressingAt src off (.sibAbs (Fin.ofNat 4 (bits sb 7 6)) (Fin.ofNat 8 (bits sb 5 3)) (BitVec.ofNat 32 d))
        (Fin.ofNat 8 (bits m 5 3)) (off + 6)

theorem decodeAddressing_ok_iff {src : ByteSource} {off off' : Nat} {am : Addressing} {r : Reg} :
    decodeAddressing src off = .ok (am, r, off') ↔ AddressingAt src off am r off' := by
  constructor
  · intro h
    obtain ⟨m, hm, h⟩ := Machine.bind_ok h
    dsimp only at h
    split at h
    · next hmod => cases h; exact .reg hm hmod
    · next hmod =>
      split at h
      · next hrm =>
        obtain ⟨sb, hsb, h⟩ := Machine.bind_ok h
        split at h
        · next hb =>
          obtain ⟨d, hd, h⟩ := Machine.bind_ok h
          cases h
          exact .sibAbs hm hb.2 hrm hsb hb.1 hd
        · next hnot =>
          obtain ⟨⟨d, o⟩, hd, h⟩ := Machine.bind_ok h
          cases h
          exact .sib hm hmod hrm hsb hnot hd
      · next hrm =>
        split at h
        · next hb =>
          obtain ⟨d, hd, h⟩ := Machine.bind_ok h
          cases h
          exact .abs hm hb.1 hb.2 hd
        · next hnot =>
          obtain ⟨⟨d, o⟩, hd, h⟩ := Machine.bind_ok h
          cases h
          exact .base hm hmod hrm hnot hd
  · intro h
    cases h <;> simp [decodeAddressing, bind, Except.bind, *]

theorem Disp.mod_lt (d : Disp) : d.mod < 3 := by
  cases d <;> simp [Disp.mod]

theorem Disp.mod_eq_zero_iff {d : Disp} : d.mod = 0 ↔ d = .none := by
  cases d <;> simp [Disp.mod]

/-- Register 4 is no plain base, and base 5 has a displacement (R76). -/
theorem Addressing.wf_base_iff {b : Reg} {d : Disp} :
    (Addressing.base b d).wf = true ↔ b.val ≠ 4 ∧ ¬ (d.mod = 0 ∧ b.val = 5) := by
  simp [Addressing.wf, Disp.mod_eq_zero_iff, Fin.ext_iff]
  tauto

/-- SIB base 5 has a displacement (R77). -/
theorem Addressing.wf_sib_iff {scale : Fin 4} {index b : Reg} {d : Disp} :
    (Addressing.sib scale index b d).wf = true ↔ ¬ (b.val = 5 ∧ d.mod = 0) := by
  simp [Addressing.wf, Disp.mod_eq_zero_iff, Fin.ext_iff]
  tauto

/-- A byte that was read is put together from its fields. -/
theorem ByteSource.Reads.fields {src : ByteSource} {off m : Nat} {xs : List Byte} (hsrc : src.Bounded)
    (hm : Sys2Proof.fetch src off 1 = .ok m) (hxs : src.Reads (off + 1) xs) :
    src.Reads off (fields233 (bits m 7 6) (Fin.ofNat 8 (bits m 5 3)).val (Fin.ofNat 8 (bits m 2 0)).val :: xs) := by
  rw [Fin.val_ofNat, Fin.val_ofNat, Nat.mod_eq_of_lt (bits_mid_lt m), Nat.mod_eq_of_lt (bits_lo_lt m),
    fields233_bits (hsrc.fetch hm)]
  exact .cons hm hxs

/-- A 4-byte pattern that was read is its bytes. -/
theorem ByteSource.Reads.dword {src : ByteSource} {off d : Nat} (hsrc : src.Bounded)
    (hd : Sys2Proof.fetch src off 4 = .ok d) : src.Reads off (leBytes 4 (BitVec.ofNat 32 d).toNat) := by
  have hlt : d < 2 ^ 32 := hsrc.fetch hd
  rw [BitVec.toNat_ofNat, Nat.mod_eq_of_lt hlt]
  exact .fetch hd

/-- The term of the addressing bytes is well formed, and the bytes read are its encoding. -/
theorem AddressingAt.encodes {src : ByteSource} {off off' : Nat} {am : Addressing} {r : Reg} (hsrc : src.Bounded)
    (h : AddressingAt src off am r off') :
    am.wf = true ∧ off' = off + (encodeAddressing am r).length ∧ src.Reads off (encodeAddressing am r) := by
  cases h with
  | @reg m hm hmod =>
    refine ⟨rfl, rfl, ?_⟩
    have hread := ByteSource.Reads.fields hsrc hm (.nil _)
    rwa [hmod] at hread
  | @base m off' d hm hmod hrm hnot hd =>
    have hlt := bits_hi_lt m
    obtain ⟨hdm, rfl, hread, -⟩ := decodeDisp_ok hd
    have hread := ByteSource.Reads.fields hsrc hm (hread hsrc)
    rw [← hdm (by omega)] at hread hnot
    refine ⟨Addressing.wf_base_iff.mpr ?_, by simp only [encodeAddressing, List.length_cons]; omega, hread⟩
    rw [Fin.val_ofNat, Nat.mod_eq_of_lt (bits_lo_lt m)]
    exact ⟨hrm, hnot⟩
  | @abs m d hm hmod hrm hd =>
    have hread := ByteSource.Reads.fields hsrc hm (.dword hsrc hd)
    rw [hmod, hrm] at hread
    exact ⟨rfl, by simp [encodeAddressing], hread⟩
  | @sib m sb off' d hm hmod hrm hsb hnot hd =>
    have hlt := bits_hi_lt m
    obtain ⟨hdm, rfl, hread, -⟩ := decodeDisp_ok hd
    have hread := ByteSource.Reads.fields hsrc hm (.fields hsrc hsb (hread hsrc))
    rw [← hdm (by omega)] at hread hnot
    rw [hrm, ← Nat.mod_eq_of_lt (bits_hi_lt sb)] at hread
    refine ⟨Addressing.wf_sib_iff.mpr ?_, by simp only [encodeAddressing, List.length_cons]; omega, hread⟩
    rwa [Fin.val_ofNat, Nat.mod_eq_of_lt (bits_lo_lt sb)]
  | @sibAbs m sb d hm hmod hrm hsb hb hd =>
    have hread := ByteSource.Reads.fields hsrc hm (.fields hsrc hsb (.dword hsrc hd))
    rw [hmod, hrm, hb, ← Nat.mod_eq_of_lt (bits_hi_lt sb)] at hread
    exact ⟨rfl, by simp [encodeAddressing], hread⟩

/-- A byte that stands there put together from fields is read with these fields. -/
theorem ByteSource.Holds.fetch_fields {src : ByteSource} {off hi : Nat} {mid lo : Reg} {xs : List Byte}
    (h : src.Holds off (fields233 hi mid.val lo.val :: xs)) (hhi : hi < 4) :
    ∃ m, Sys2Proof.fetch src off 1 = .ok m ∧ bits m 7 6 = hi ∧ bits m 5 3 = mid.val ∧ bits m 2 0 = lo.val := by
  refine ⟨_, h.fetch_head, ?_⟩
  rw [fields233_toNat hhi mid.isLt lo.isLt]
  exact bits_fields hhi mid.isLt lo.isLt

/-- The addressing bytes of a well-formed term are read as the term. -/
theorem decodeAddressing_of_holds {src : ByteSource} {off : Nat} {am : Addressing} {r : Reg} (hwf : am.wf = true)
    (h : src.Holds off (encodeAddressing am r)) :
    decodeAddressing src off = .ok (am, r, off + (encodeAddressing am r).length) := by
  cases am with
  | reg i =>
    obtain ⟨m, hm, hmod, hmid, hlo⟩ := h.fetch_fields (by decide)
    simp [decodeAddressing, encodeAddressing, bind, Except.bind, hm, hmod, hmid, hlo]
  | base b d =>
    have hlt := d.mod_lt
    obtain ⟨m, hm, hmod, hmid, hlo⟩ := h.fetch_fields (by omega)
    have hd := decodeDisp_of_holds h.tail
    obtain ⟨h4, h5⟩ := Addressing.wf_base_iff.mp hwf
    simp [decodeAddressing, encodeAddressing, bind, Except.bind, hm, hmod, hmid, hlo, hd, hlt.ne, h4, h5, Nat.add_assoc,
      Nat.add_comm 1]
  | abs d =>
    obtain ⟨m, hm, hmod, hmid, hlo⟩ := h.fetch_fields (lo := 5) (by decide)
    have hd := h.tail.fetch_leBytes (by decide) d.isLt
    simp [decodeAddressing, encodeAddressing, bind, Except.bind, hm, hmod, hmid, hlo, hd]
  | sib sc ix b d =>
    have hlt := d.mod_lt
    obtain ⟨m, hm, hmod, hmid, hlo⟩ := h.fetch_fields (lo := 4) (by omega)
    obtain ⟨sb, hsb, hsc, hix, hb⟩ := h.tail.fetch_fields sc.isLt
    have hd := decodeDisp_of_holds h.tail.tail
    have h5 := Addressing.wf_sib_iff.mp hwf
    simp [decodeAddressing, encodeAddressing, bind, Except.bind, hm, hmod, hmid, hlo, hsb, hsc, hix, hb, hd, hlt.ne, h5,
      Nat.add_assoc, Nat.add_comm 2]
  | sibAbs sc ix d =>
    obtain ⟨m, hm, hmod, hmid, hlo⟩ := h.fetch_fields (lo := 4) (by decide)
    obtain ⟨sb, hsb, hsc, hix, hb⟩ := h.tail.fetch_fields (lo := 5) sc.isLt
    have hd := h.tail.tail.fetch_leBytes (by decide) d.isLt
    simp [decodeAddressing, encodeAddressing, bind, Except.bind, hm, hmod, hmid, hlo, hd, hsb, hsc, hix, hb]

end Sys2Proof
end

section
/-! SUPPORT. The table of the opcode bytes (spec/30_encoding.md R81, R82): the decoder's forms, the encoder and the
opcode map hold the same rows. -/

namespace Sys2Proof.Machine

/-! ### The rows of the opcode table (R81, R82) -/

/-- Instruction `i` is the row at opcode byte `opcode` that runs as `c` and has the operand bytes `xs` (R72). -/
def IsRow (v : VSize) (opcode : Nat) (c : HandlerRun) (xs : List Byte) (i : Instr) : Prop :=
  handlerRun i = c ∧ encode i = v.bytes66 ++ BitVec.ofNat 8 opcode :: xs

/-- The rows that a tail makes, for handler `h` with extension `ext`. -/
def TailRows (v : VSize) (opcode : Nat) (h : Handler) (ext : Reg) : Tail → Prop
  | .done mk => h.immBytes = none ∧ ∀ am, IsRow v opcode ⟨h, am, 0, 0⟩ (encodeAddressing am ext) (mk am)
  | .imm8 mk => h.immBytes = some 1 ∧
      ∀ am b, IsRow v opcode ⟨h, am, 0, b.toNat⟩ (encodeAddressing am ext ++ [b]) (mk am b)
  | .immv mk => h.immBytes = some v.width.bytes ∧
      ∀ am i, i.size = v → IsRow v opcode ⟨h, am, 0, i.toNat⟩ (encodeAddressing am ext ++ i.bytes) (mk am i)

/-- The rows of a group with the candidates `hs`: one candidate for each extension that is not reserved (R82, R87). -/
def GroupRows (v : VSize) (opcode : Nat) (hs : List Handler) (pick : Reg → Option Tail) : Prop :=
  hs ≠ [] ∧ (∀ h ∈ hs, h.addressed = true ∧ h.ext.isSome = true) ∧ ∀ ext,
    match pick ext with
    | some tail => ∃ h ∈ hs, h.ext = some ext ∧ TailRows v opcode h ext tail
    | none => ∀ h ∈ hs, h.ext ≠ some ext

/-- The rows that a form makes, for the candidates `hs` of its opcode byte (R72). -/
def FormRows (v : VSize) (opcode : Nat) (hs : List Handler) : Form → Prop
  | .addressed mk => ∃ h, hs = [h] ∧ h.addressed = true ∧ h.ext = none ∧ h.immBytes = none ∧
      ∀ am r, IsRow v opcode ⟨h, am, r, 0⟩ (encodeAddressing am r) (mk am r)
  | .group pick => GroupRows v opcode hs pick
  | .imm8 mk => ∃ h, hs = [h] ∧ h.addressed = false ∧ h.immBytes = some 1 ∧
      ∀ b, IsRow v opcode ⟨h, .reg 0, 0, b.toNat⟩ [b] (mk b)
  | .immv mk => ∃ h, hs = [h] ∧ h.addressed = false ∧ h.immBytes = some v.width.bytes ∧
      ∀ i, i.size = v → IsRow v opcode ⟨h, .reg 0, 0, i.toNat⟩ i.bytes (mk i)
  | .moffs mk => ∃ h, hs = [h] ∧ h.addressed = false ∧ h.immBytes = some Config.addrWidth ∧
      ∀ a, IsRow v opcode ⟨h, .reg 0, 0, a.toNat⟩ (leBytes Config.addrWidth a.toNat) (mk a)

theorem group80_rows (v : VSize) :
    GroupRows v 0x80 (immGroup.map fun op => .aluRmImm op .w1 .w1) (group80 v.p66) := by
  refine ⟨by simp [immGroup], by simp [Handler.addressed, Handler.ext], fun ext => ?_⟩
  fin_cases ext <;>
    simp [group80, immGroup, Handler.ext, aluExt, TailRows, Handler.immBytes, IsRow, encode, handlerRun, Width.bytes,
      VSize.bytes66]

theorem group81_rows (v : VSize) :
    GroupRows v 0x81 (immGroup.map fun op => .aluRmImm op v.width v.width) group81 := by
  refine ⟨by simp [immGroup], by simp [Handler.addressed, Handler.ext], fun ext => ?_⟩
  fin_cases ext <;>
    simp +contextual [group81, immGroup, Handler.ext, aluExt, TailRows, Handler.immBytes, IsRow, encode, handlerRun]

theorem group83_rows (v : VSize) :
    GroupRows v 0x83 (immGroup.map fun op => .aluRmImm op v.width .w1) (group83 v) := by
  refine ⟨by simp [immGroup], by simp [Handler.addressed, Handler.ext], fun ext => ?_⟩
  fin_cases ext <;>
    simp [group83, immGroup, Handler.ext, aluExt, TailRows, Handler.immBytes, IsRow, encode, handlerRun, Width.bytes]

theorem groupC6_rows (v : VSize) : GroupRows v 0xC6 [.movRmImm .w1] (groupC6 v.p66) := by
  refine ⟨by simp, by simp [Handler.addressed, Handler.ext], fun ext => ?_⟩
  fin_cases ext <;>
    simp [groupC6, Handler.ext, TailRows, Handler.immBytes, IsRow, encode, handlerRun, Width.bytes, VSize.bytes66]

theorem groupC7_rows (v : VSize) : GroupRows v 0xC7 [.movRmImm v.width] groupC7 := by
  refine ⟨by simp, by simp [Handler.addressed, Handler.ext], fun ext => ?_⟩
  fin_cases ext <;> simp +contextual [groupC7, Handler.ext, TailRows, Handler.immBytes, IsRow, encode, handlerRun]

theorem groupF6_rows (v : VSize) :
    GroupRows v 0xF6 [.aluRmImm (.bitw .test) .w1 .w1, .unaryRm .not .w1, .unaryRm .neg .w1] (groupF6 v.p66) := by
  refine ⟨by simp, by simp [Handler.addressed, Handler.ext], fun ext => ?_⟩
  fin_cases ext <;>
    simp [groupF6, Handler.ext, aluExt, unExt, TailRows, Handler.immBytes, IsRow, encode, handlerRun, Width.bytes,
      VSize.bytes66]

theorem groupF7_rows (v : VSize) :
    GroupRows v 0xF7 [.aluRmImm (.bitw .test) v.width v.width, .unaryRm .not v.width, .unaryRm .neg v.width]
      (groupF7 v) := by
  refine ⟨by simp, by simp [Handler.addressed, Handler.ext], fun ext => ?_⟩
  fin_cases ext <;>
    simp +contextual [groupF7, Handler.ext, aluExt, unExt, TailRows, Handler.immBytes, IsRow, encode, handlerRun]

/-- Decoder and opcode map hold the same table: the form of a listed opcode byte makes the rows of its candidates. -/
theorem opcodeForm_rows {opcode : Nat} {v : VSize} {form : Form} (h : opcodeForm opcode v.p66 v = some form) :
    FormRows v opcode (candidates opcode v.width) form := by
  unfold opcodeForm at h
  split at h
  all_goals cases h
  all_goals
    simp +contextual [FormRows, candidates, sixShapes, IsRow, Handler.addressed, Handler.ext, Handler.immBytes, encode,
      handlerRun, Width.bytes, VSize.bytes66, group80_rows, group81_rows, group83_rows, groupC6_rows, groupC7_rows,
      groupF6_rows, groupF7_rows]

theorem sixShapes_of_le {k : Nat} (h : 6 ≤ k) (op : AluOp) (w : Width) : sixShapes op w k = [] := by
  unfold sixShapes
  split
  case h_7 => rfl
  all_goals omega

/-- An opcode byte that the decoder does not list has no candidates (R86). -/
theorem candidates_of_opcodeForm_none {opcode : Nat} {p : Bool} {v : VSize} (h : opcodeForm opcode p v = none)
    (w : Width) : candidates opcode w = [] := by
  unfold opcodeForm at h
  split at h
  all_goals cases h
  simp only [imp_false] at *
  unfold candidates
  split
  case h_7 | h_8 => exfalso; omega
  case h_9 =>
    split
    case h_22 => rfl
    all_goals contradiction
  all_goals exact sixShapes_of_le (by omega) _ _

end Sys2Proof.Machine
end

section
/-! SUPPORT. Decoder and encoder are inverse to each other (spec/30_encoding.md R72 to R84). -/

namespace Sys2Proof

open Machine

theorem decodeVImm_ok {src : ByteSource} {v : VSize} {off off' : Nat} {i : VImm} (hsrc : src.Bounded)
    (h : decodeVImm src v off = .ok (i, off')) :
    i.size = v ∧ off' = off + i.bytes.length ∧ src.Reads off i.bytes := by
  cases v with
  | v2 =>
    obtain ⟨x, hx, h⟩ := bind_ok h
    cases h
    have hlt : x < 2 ^ 16 := hsrc.fetch hx
    refine ⟨rfl, by simp [VImm.bytes], ?_⟩
    rw [VImm.bytes, BitVec.toNat_ofNat, Nat.mod_eq_of_lt hlt]
    exact .fetch hx
  | v4 =>
    obtain ⟨x, hx, h⟩ := bind_ok h
    cases h
    exact ⟨rfl, by simp [VImm.bytes], .dword hsrc hx⟩

theorem decodeVImm_of_holds {src : ByteSource} {off : Nat} {i : VImm} (h : src.Holds off i.bytes) :
    decodeVImm src i.size off = .ok (i, off + i.bytes.length) := by
  cases i with
  | word i => simp [decodeVImm, VImm.size, VImm.bytes, h.fetch_leBytes (by decide) i.isLt, bind, Except.bind]
  | dword i => simp [decodeVImm, VImm.size, VImm.bytes, h.fetch_leBytes (by decide) i.isLt, bind, Except.bind]

/-! ### What the decoder answers is the encoding of its instruction -/

/-- A decoder's answer at `off`: a row at the opcode byte with a well-formed addressing term, and its operand bytes are
the bytes read. -/
def ReadsRow (src : ByteSource) (v : VSize) (opcode off : Nat) (i : Instr) (n : Nat) : Prop :=
  ∃ c xs, IsRow v opcode c xs i ∧ c.am.wf = true ∧ n = off + xs.length ∧ src.Reads off xs

theorem decodeTail_ok {src : ByteSource} {v : VSize} {opcode off off' n : Nat} {h : Handler} {ext : Reg} {tail : Tail}
    {am : Addressing} {i : Instr} (hsrc : src.Bounded) (hrows : TailRows v opcode h ext tail) (hwf : am.wf = true)
    (hoff : off' = off + (encodeAddressing am ext).length) (ham : src.Reads off (encodeAddressing am ext))
    (hi : decodeTail src v tail am off' = .ok (i, n)) : ReadsRow src v opcode off i n := by
  subst hoff
  cases tail with
  | done mk =>
    cases hi
    exact ⟨_, _, hrows.2 am, hwf, rfl, ham⟩
  | imm8 mk =>
    obtain ⟨x, hx, hi⟩ := bind_ok hi
    cases hi
    exact ⟨_, _, hrows.2 am _, hwf, by simp; omega, .append ham (.fetch hx)⟩
  | immv mk =>
    obtain ⟨⟨x, o⟩, hx, hi⟩ := bind_ok hi
    cases hi
    obtain ⟨hsize, rfl, hread⟩ := decodeVImm_ok hsrc hx
    exact ⟨_, _, hrows.2 am x hsize, hwf, by simp; omega, .append ham hread⟩

theorem decodeForm_ok {src : ByteSource} {v : VSize} {opcode off n : Nat} {hs : List Handler} {form : Form} {i : Instr}
    (hsrc : src.Bounded) (hrows : FormRows v opcode hs form) (hi : decodeForm src opcode v form off = .ok (i, n)) :
    ReadsRow src v opcode off i n := by
  cases form with
  | addressed mk =>
    obtain ⟨h, -, -, -, -, hrow⟩ := hrows
    obtain ⟨⟨am, r, o⟩, ham, hi⟩ := bind_ok hi
    cases hi
    obtain ⟨hwf, rfl, hread⟩ := (decodeAddressing_ok_iff.mp ham).encodes hsrc
    exact ⟨_, _, hrow am r, hwf, rfl, hread⟩
  | group pick =>
    obtain ⟨-, -, hgroup⟩ := hrows
    obtain ⟨⟨am, ext, o⟩, ham, hi⟩ := bind_ok hi
    obtain ⟨hwf, rfl, hread⟩ := (decodeAddressing_ok_iff.mp ham).encodes hsrc
    specialize hgroup ext
    dsimp only at hi
    cases hpick : pick ext with
    | none => simp [hpick] at hi
    | some tail =>
      rw [hpick] at hi hgroup
      obtain ⟨h, -, -, hrow⟩ := hgroup
      exact decodeTail_ok hsrc hrow hwf rfl hread hi
  | imm8 mk =>
    obtain ⟨h, -, -, -, hrow⟩ := hrows
    obtain ⟨x, hx, hi⟩ := bind_ok hi
    cases hi
    exact ⟨_, _, hrow _, rfl, rfl, .fetch hx⟩
  | immv mk =>
    obtain ⟨h, -, -, -, hrow⟩ := hrows
    obtain ⟨⟨x, o⟩, hx, hi⟩ := bind_ok hi
    cases hi
    obtain ⟨hsize, rfl, hread⟩ := decodeVImm_ok hsrc hx
    exact ⟨_, _, hrow x hsize, rfl, rfl, hread⟩
  | moffs mk =>
    obtain ⟨h, -, -, -, hrow⟩ := hrows
    obtain ⟨x, hx, hi⟩ := bind_ok hi
    cases hi
    exact ⟨_, _, hrow _, rfl, by simp, .dword hsrc hx⟩

theorem decodeOpcode_ok {src : ByteSource} {v : VSize} {opcode off n : Nat} {i : Instr} (hsrc : src.Bounded)
    (hi : decodeOpcode src opcode v.p66 v off = .ok (i, n)) : ReadsRow src v opcode off i n := by
  unfold decodeOpcode at hi
  split at hi
  · next form hform => exact decodeForm_ok hsrc (opcodeForm_rows hform) hi
  · cases hi

/-- An instruction is well formed where the addressing term that its handler gets is. -/
theorem Instr.wf_eq (i : Instr) : i.wf = (handlerRun i).am.wf := by
  cases i <;> rfl

/-- The instruction that the decoder reads is well formed, and what it has read are the bytes of its encoding. -/
theorem decodeFrom_ok {src : ByteSource} {i : Instr} {n : Nat} (hsrc : src.Bounded) (hi : decodeFrom src = .ok (i, n)) :
    i.wf = true ∧ n = (encode i).length ∧ src.Reads 0 (encode i) := by
  obtain ⟨b, hb, hi⟩ := bind_ok hi
  split at hi
  · next h66 =>
    obtain ⟨b', hb', hi⟩ := bind_ok hi
    obtain ⟨c, xs, ⟨hrun, henc⟩, hwf, rfl, hread⟩ := decodeOpcode_ok (v := .v2) hsrc hi
    rw [Instr.wf_eq, hrun, henc]
    subst h66
    exact ⟨hwf, by simp [VSize.bytes66, VSize.p66, p66Bytes]; omega, .cons hb (.cons hb' hread)⟩
  · obtain ⟨c, xs, ⟨hrun, henc⟩, hwf, rfl, hread⟩ := decodeOpcode_ok (v := .v4) hsrc hi
    rw [Instr.wf_eq, hrun, henc]
    exact ⟨hwf, by simp [VSize.bytes66, VSize.p66, p66Bytes]; omega, .cons hb hread⟩

/-! ### The decoder reads every encoding -/

/-- The bytes of `i` are the 0x66 byte that its v-size calls for, an opcode byte, and operand bytes from which the
decoder reads `i`. -/
def DecodesBack (i : Instr) : Prop :=
  ∃ (v : VSize) (op : Byte) (xs : List Byte), op ≠ 0x66#8 ∧ encode i = v.bytes66 ++ op :: xs ∧
    ∀ (src : ByteSource) (off : Nat), src.Holds off xs →
      decodeOpcode src op.toNat v.p66 v off = .ok (i, off + xs.length)

theorem op_ne_66 {op : Byte} {p : Bool} {v : VSize} {form : Form} (h : opcodeForm op.toNat p v = some form) :
    op ≠ 0x66#8 := by
  rintro rfl
  cases h

theorem DecodesBack.of_addressed {i : Instr} {p : Bool} {op : Byte} {v : VSize} {am : Addressing} {r : Reg}
    {mk : Addressing → Reg → Instr} (henc : encode i = p66Bytes p ++ op :: encodeAddressing am r) (hv : v.p66 = p)
    (hform : opcodeForm op.toNat p v = some (.addressed mk)) (hi : mk am r = i) (hwf : am.wf = true) :
    DecodesBack i := by
  subst hv
  refine ⟨v, op, _, op_ne_66 hform, henc, fun src off h => ?_⟩
  simp [decodeOpcode, hform, decodeForm, decodeAddressing_of_holds hwf h, bind, Except.bind, hi]

theorem DecodesBack.of_group {i : Instr} {p : Bool} {op : Byte} {v : VSize} {am : Addressing} {ext : Reg}
    {ys : List Byte} {pick : Reg → Option Tail} {tail : Tail}
    (henc : encode i = p66Bytes p ++ op :: (encodeAddressing am ext ++ ys)) (hv : v.p66 = p)
    (hform : opcodeForm op.toNat p v = some (.group pick)) (hpick : pick ext = some tail)
    (htail : ∀ (src : ByteSource) (off : Nat), src.Holds off ys →
      decodeTail src v tail am off = .ok (i, off + ys.length)) (hwf : am.wf = true) : DecodesBack i := by
  subst hv
  refine ⟨v, op, _, op_ne_66 hform, henc, fun src off h => ?_⟩
  simp [decodeOpcode, hform, decodeForm, decodeAddressing_of_holds hwf h.left, bind, Except.bind, hpick,
    htail src _ h.right, Nat.add_assoc]

theorem DecodesBack.of_group_done {i : Instr} {p : Bool} {op : Byte} {v : VSize} {am : Addressing} {ext : Reg}
    {pick : Reg → Option Tail} {mk : Addressing → Instr}
    (henc : encode i = p66Bytes p ++ op :: encodeAddressing am ext) (hv : v.p66 = p)
    (hform : opcodeForm op.toNat p v = some (.group pick)) (hpick : pick ext = some (.done mk)) (hi : mk am = i)
    (hwf : am.wf = true) : DecodesBack i := by
  refine .of_group (ys := []) (by rwa [List.append_nil]) hv hform hpick (fun src off _ => ?_) hwf
  rw [decodeTail, hi]
  rfl

theorem DecodesBack.of_group_imm8 {i : Instr} {p : Bool} {op : Byte} {v : VSize} {am : Addressing} {ext : Reg}
    {imm : BitVec 8} {pick : Reg → Option Tail} {mk : Addressing → BitVec 8 → Instr}
    (henc : encode i = p66Bytes p ++ op :: (encodeAddressing am ext ++ [imm])) (hv : v.p66 = p)
    (hform : opcodeForm op.toNat p v = some (.group pick)) (hpick : pick ext = some (.imm8 mk)) (hi : mk am imm = i)
    (hwf : am.wf = true) : DecodesBack i := by
  refine .of_group henc hv hform hpick (fun src off h => ?_) hwf
  simp [decodeTail, h.fetch_head, bind, Except.bind, hi]

theorem DecodesBack.of_group_immv {i : Instr} {op : Byte} {am : Addressing} {ext : Reg} {imm : VImm}
    {pick : Reg → Option Tail} {mk : Addressing → VImm → Instr}
    (henc : encode i = imm.size.bytes66 ++ op :: (encodeAddressing am ext ++ imm.bytes))
    (hform : opcodeForm op.toNat imm.size.p66 imm.size = some (.group pick)) (hpick : pick ext = some (.immv mk))
    (hi : mk am imm = i) (hwf : am.wf = true) : DecodesBack i := by
  refine .of_group henc rfl hform hpick (fun src off h => ?_) hwf
  simp [decodeTail, decodeVImm_of_holds h, bind, Except.bind, hi]

theorem DecodesBack.of_imm8 {i : Instr} {p : Bool} {op : Byte} {v : VSize} {imm : BitVec 8} {mk : BitVec 8 → Instr}
    (henc : encode i = p66Bytes p ++ [op, imm]) (hv : v.p66 = p)
    (hform : opcodeForm op.toNat p v = some (.imm8 mk)) (hi : mk imm = i) : DecodesBack i := by
  subst hv
  refine ⟨v, op, _, op_ne_66 hform, henc, fun src off h => ?_⟩
  simp [decodeOpcode, hform, decodeForm, h.fetch_head, bind, Except.bind, hi]

theorem DecodesBack.of_immv {i : Instr} {op : Byte} {imm : VImm} {mk : VImm → Instr}
    (henc : encode i = imm.size.bytes66 ++ op :: imm.bytes)
    (hform : opcodeForm op.toNat imm.size.p66 imm.size = some (.immv mk)) (hi : mk imm = i) : DecodesBack i := by
  refine ⟨imm.size, op, _, op_ne_66 hform, henc, fun src off h => ?_⟩
  simp [decodeOpcode, hform, decodeForm, decodeVImm_of_holds h, bind, Except.bind, hi]

theorem DecodesBack.of_moffs {i : Instr} {p : Bool} {op : Byte} {v : VSize} {addr : BitVec 32}
    {mk : BitVec 32 → Instr} (henc : encode i = p66Bytes p ++ op :: leBytes Config.addrWidth addr.toNat)
    (hv : v.p66 = p) (hform : opcodeForm op.toNat p v = some (.moffs mk)) (hi : mk addr = i) : DecodesBack i := by
  subst hv
  refine ⟨v, op, _, op_ne_66 hform, henc, fun src off h => ?_⟩
  simp [decodeOpcode, hform, decodeForm, h.fetch_leBytes (by decide) addr.isLt, bind, Except.bind, hi]

/-- The v-size that goes with a 0x66 byte or its absence (R84). -/
def sizeOf66 (p : Bool) : VSize := if p then .v2 else .v4

theorem sizeOf66_p66 (p : Bool) : (sizeOf66 p).p66 = p := by
  cases p <;> rfl

theorem opcodeForm_movRImm8 (r : Reg) (p : Bool) (v : VSize) :
    opcodeForm (BitVec.ofNat 8 (0xB0 + r.val)).toNat p v = some (.imm8 (.movRImm8 p r)) := by
  fin_cases r <;> rfl

theorem opcodeForm_movRImmv (r : Reg) (p : Bool) (v : VSize) :
    opcodeForm (BitVec.ofNat 8 (0xB8 + r.val)).toNat p v = some (.immv (.movRImmv r)) := by
  fin_cases r <;> rfl

/-- Every row, by the shape of its operand bytes (R72). -/
theorem decodesBack {i : Instr} (hwf : i.wf = true) : DecodesBack i := by
  cases i with
  | addRmR8 p am r | orRmR8 p am r | andRmR8 p am r | subRmR8 p am r | xorRmR8 p am r | cmpRmR8 p am r
  | testRmR8 p am r | movRmR8 p am r =>
    exact .of_addressed rfl (sizeOf66_p66 p) rfl rfl hwf
  | addRmRv v am r | orRmRv v am r | andRmRv v am r | subRmRv v am r | xorRmRv v am r | cmpRmRv v am r
  | testRmRv v am r | movRmRv v am r =>
    exact .of_addressed (v := v) rfl rfl rfl rfl hwf
  | addRRm8 p r am | orRRm8 p r am | andRRm8 p r am | subRRm8 p r am | xorRRm8 p r am | cmpRRm8 p r am
  | movRRm8 p r am =>
    exact .of_addressed rfl (sizeOf66_p66 p) rfl rfl hwf
  | addRRmv v r am | orRRmv v r am | andRRmv v r am | subRRmv v r am | xorRRmv v r am | cmpRRmv v r am
  | movRRmv v r am =>
    exact .of_addressed (v := v) rfl rfl rfl rfl hwf
  | addAccImm8 p imm | orAccImm8 p imm | andAccImm8 p imm | subAccImm8 p imm | xorAccImm8 p imm | cmpAccImm8 p imm
  | testAccImm8 p imm | jmpRel8 p imm =>
    exact .of_imm8 rfl (sizeOf66_p66 p) rfl rfl
  | addAccImmv imm | orAccImmv imm | andAccImmv imm | subAccImmv imm | xorAccImmv imm | cmpAccImmv imm
  | testAccImmv imm | jmpRelv imm =>
    exact .of_immv rfl rfl rfl
  | addRmImm8 p am imm | orRmImm8 p am imm | andRmImm8 p am imm | subRmImm8 p am imm | xorRmImm8 p am imm
  | cmpRmImm8 p am imm | testRmImm8 p am imm | movRmImm8 p am imm =>
    exact .of_group_imm8 rfl (sizeOf66_p66 p) rfl rfl rfl hwf
  | addRmImmv am imm | orRmImmv am imm | andRmImmv am imm | subRmImmv am imm | xorRmImmv am imm | cmpRmImmv am imm
  | testRmImmv am imm | movRmImmv am imm =>
    exact .of_group_immv rfl rfl rfl rfl hwf
  | addRmSImm8 v am imm | orRmSImm8 v am imm | andRmSImm8 v am imm | subRmSImm8 v am imm | xorRmSImm8 v am imm
  | cmpRmSImm8 v am imm =>
    exact .of_group_imm8 (v := v) rfl rfl rfl rfl rfl hwf
  | notRm8 p am | negRm8 p am =>
    exact .of_group_done rfl (sizeOf66_p66 p) rfl rfl rfl hwf
  | notRmv v am | negRmv v am =>
    exact .of_group_done (v := v) rfl rfl rfl rfl rfl hwf
  | movAccMoffs8 p addr | movMoffsAcc8 p addr =>
    exact .of_moffs rfl (sizeOf66_p66 p) rfl rfl
  | movAccMoffsv v addr | movMoffsAccv v addr =>
    exact .of_moffs (v := v) rfl rfl rfl rfl
  | movRImm8 p r imm =>
    exact .of_imm8 rfl (sizeOf66_p66 p) (opcodeForm_movRImm8 r p _) rfl
  | movRImmv r imm =>
    exact .of_immv rfl (opcodeForm_movRImmv r _ _) rfl

/-- The decoder reads a well-formed instruction wherever the bytes of its encoding stand. -/
theorem decodeFrom_of_holds {src : ByteSource} {i : Instr} (hwf : i.wf = true) (h : src.Holds 0 (encode i)) :
    decodeFrom src = .ok (i, (encode i).length) := by
  obtain ⟨v, op, xs, hop, henc, hback⟩ := decodesBack hwf
  rw [henc] at h ⊢
  cases v with
  | v2 =>
    have hb : fetch src 0 1 = .ok 0x66 := h.fetch_head
    have hb' : fetch src 1 1 = .ok op.toNat := h.tail.fetch_head
    have hlen : (VSize.v2.bytes66 ++ op :: xs).length = 2 + xs.length := Nat.add_comm xs.length 2
    simp only [decodeFrom, hb, hb', bind, Except.bind, if_true, hlen]
    exact hback src 2 h.tail.tail
  | v4 =>
    have hb : fetch src 0 1 = .ok op.toNat := h.fetch_head
    have hne : op.toNat ≠ 0x66 := fun he => hop (BitVec.eq_of_toNat_eq he)
    have hlen : (VSize.v4.bytes66 ++ op :: xs).length = 1 + xs.length := Nat.add_comm _ _
    simp only [decodeFrom, hb, hne, bind, Except.bind, if_false, hlen]
    exact hback src 1 h.tail

end Sys2Proof

open Sys2Proof

/-- Settles O1: the bytes of the encoding stand at the start of the list, and the decoder reads the instruction wherever
they stand. -/
theorem decodeEncodeRoundTrip : Obligations.DecodeEncodeRoundTrip := by
  unfold Obligations.DecodeEncodeRoundTrip
  intro i rest hwf
  exact decodeFrom_of_holds hwf (listSource_holds (encode i) rest)

/-- Settles O2: the bytes that the decoder has read are those of the encoding, and in a list they stand first. -/
theorem encodeDecodeRoundTrip : Obligations.EncodeDecodeRoundTrip := by
  unfold Obligations.EncodeDecodeRoundTrip
  intro bs i n h
  obtain ⟨hwf, rfl, hreads⟩ := decodeFrom_ok (listSource_bounded bs) h
  have hprefix : encode i <+: bs := listSource_reads hreads
  exact ⟨hwf, hprefix.length_le, List.prefix_iff_eq_take.mp hprefix⟩

end

section
/-! SUPPORT. The step around the decoder (spec/30_encoding.md R84; spec/20_memory.md R60): memory at `ip` as the
decoder's byte source, and `DEC_REF` as its addressing bytes. -/

namespace Sys2Proof.Machine

open Claims

/-! ### Memory at `ip` as a byte source (R60, R139) -/

theorem State.fetchSource_eq_some_iff {s : State} {off n v : Nat} :
    s.fetchSource off n = some v ↔ s.memRead (s.ip + BitVec.ofNat 32 off) n = .ok v := by
  unfold State.fetchSource
  split <;> simp [*]

theorem State.fetchSource_bounded (s : State) : s.fetchSource.Bounded :=
  fun _ _ _ h => (State.memRead_ok (State.fetchSource_eq_some_iff.mp h)).2.2

/-- Bytes that stand in memory from `ip` on, below `MEM_SIZE`, are read there. -/
theorem State.fetchSource_holds {s : State} {xs : List Byte} (hsize : s.memSize ≤ Config.addressSpace)
    (hfits : s.ip.toNat + xs.length ≤ s.memSize)
    (hxs : ∀ (k : Nat) (hk : k < xs.length), s.byteAt (s.ip.toNat + k) = xs[k]) : s.fetchSource.Holds 0 xs := by
  intro k n hn hk
  have hsize : s.memSize ≤ 2 ^ 32 := hsize
  have haddr : (s.ip + BitVec.ofNat 32 k).toNat = s.ip.toNat + k := by
    rw [BitVec.toNat_add, BitVec.toNat_ofNat]
    omega
  have hbytes : s.mem.getBytes (s.ip.toNat + k) n = (xs.drop k).take n := by
    apply List.ext_getElem
    · simp
      omega
    · intro j hj _
      rw [Memory.getBytes_length] at hj
      rw [Memory.getBytes_getElem, List.getElem_take, List.getElem_drop, ← hxs (k + j) (by omega), Nat.add_assoc]
      rfl
  have hadmit : s.memAdmit (s.ip + BitVec.ofNat 32 k) n = true := by
    rw [State.memAdmit, haddr, decide_eq_true_eq]
    omega
  rw [Nat.zero_add, State.fetchSource_eq_some_iff, State.memRead_admitted hadmit, haddr, hbytes]

/-- A read of the decoder at `ip`, its stop as the fault that it raises. -/
theorem fetch_fetchSource (s : State) (off n : Nat) :
    (fetch s.fetchSource off n).mapError s.stopFault = s.memRead (s.ip + BitVec.ofNat 32 off) n := by
  cases hread : s.memRead (s.ip + BitVec.ofNat 32 off) n with
  | ok v =>
    rw [fetch_ok_iff.mpr (State.fetchSource_eq_some_iff.mpr hread)]
    rfl
  | error f =>
    have hnone : s.fetchSource off n = none := by simp [State.fetchSource, hread]
    rw [fetch_error_iff.mpr ⟨hnone, rfl⟩, (State.memRead_error hread).2]
    rfl

theorem mapError_bind {ε ε' α β : Type} (g : ε → ε') (x : Except ε α) (f : α → Except ε β) :
    (x >>= f).mapError g = x.mapError g >>= fun a => (f a).mapError g := by
  cases x <;> rfl

@[simp] theorem ok_bind {ε α β : Type} (a : α) (f : α → Except ε β) : (Except.ok a >>= f) = f a := rfl

@[simp] theorem mapError_ok {ε ε' α : Type} (g : ε → ε') (a : α) : (Except.ok a).mapError g = .ok a := rfl

/-- `FetchImm` at an offset from `ip` (R139). -/
theorem State.fetchImm_advance (s : State) (off n : Nat) :
    (s.advance off).fetchImm n =
      (fetch s.fetchSource off n).mapError s.stopFault >>= fun v => .ok (v, s.advance (off + n)) := by
  rw [fetch_fetchSource, State.fetchImm, State.advance_advance]
  rfl

/-! ### The step around the decoder (R84) -/

/-- What a step answers on the decoder's answer: the instruction runs past its bytes, or the stop is a fault. -/
def State.runDecoded (s : State) : Except DecodeStop (Instr × Nat) → Host.Outcome State Fault Refusal
  | .ok (i, n) => exec i (s.advance n)
  | .error stop => .fault (s.stopFault stop)

/-- Once the engine is idle and the run is not over, a step is the decoder's answer, run. -/
theorem step_of_running {s : State} (h : Running s) : step s = s.runDecoded (decodeFrom s.fetchSource) := by
  obtain ⟨hidle, hrun⟩ := h
  simp only [step, hidle, if_neg hrun, State.fetchInstr]
  cases decodeFrom s.fetchSource <;> rfl

/-! ### The reference decoder as the decoder's addressing bytes (R76 to R78) -/

/-- A 4-byte displacement, read by `DEC_REF` and by the decoder. -/
theorem fetchDisp_advance_four (s : State) (off : Nat) :
    fetchDisp (s.advance off) 4 =
      (fetch s.fetchSource off 4).mapError s.stopFault >>= fun d => .ok (BitVec.ofNat 32 d) := by
  simp [fetchDisp, State.fetchImm_advance, bind_assoc]

/-- The displacement that `mod` calls for, read by `DEC_REF` and by the decoder, and what goes on with it and the offset
after it. -/
theorem fetchDisp_advance_bind {α : Type} (s : State) (mod off : Nat) (k : Word → Nat → Except Fault α) :
    (fetchDisp (s.advance off) (dlen mod) >>= fun d => k d (off + dlen mod)) =
      (decodeDisp s.fetchSource mod off).mapError s.stopFault >>= fun d => k d.1.addend d.2 := by
  match mod with
  | 0 => rfl
  | 1 =>
    simp only [fetchDisp, dlen, decodeDisp, State.fetchImm_advance, mapError_bind, bind_assoc, ok_bind, mapError_ok]
    cases hd : fetch s.fetchSource off 1 with
    | error stop => rfl
    | ok d =>
      have hlt : d < 2 ^ 8 := s.fetchSource_bounded.fetch hd
      have hmod : d % 256 = d := Nat.mod_eq_of_lt hlt
      simp [Disp.addend, hmod]
  | _ + 2 =>
    simp only [fetchDisp_advance_four, dlen, decodeDisp, mapError_bind, bind_assoc, ok_bind, mapError_ok, Disp.addend]

theorem scaledIndex_advance (s : State) (n : Nat) (scale : Fin 4) (index : Reg) :
    scaledIndex (s.advance n) scale index = scaledIndex s scale index := rfl

/-- `DEC_REF` at an offset from `ip` is the decoder's addressing bytes there, its term resolved. -/
theorem decRef_advance (wRM wR : Width) (s : State) (off : Nat) :
    decRef wRM wR (s.advance off) =
      (decodeAddressing s.fetchSource off).mapError s.stopFault >>= fun (am, r, off') =>
        .ok (resolve am wRM s, ⟨r, wR⟩, off' - off) := by
  unfold decRef decodeAddressing
  simp only [mapError_bind, bind_assoc, State.fetchImm_advance, ok_bind]
  refine bind_congr fun m => ?_
  split
  · simp [resolve]
  split
  · simp only [mapError_bind, bind_assoc]
    refine bind_congr fun sb => ?_
    unfold sibFields
    split
    · simp [fetchDisp_advance_four, mapError_bind, bind_assoc, resolve, Nat.add_assoc, scaledIndex_advance]
    · have hdisp := fetchDisp_advance_bind s (bits m 7 6) (off + 2) fun d o =>
        .ok (RM.mem (s.reg (Fin.ofNat 8 (bits sb 2 0)) +
          scaledIndex s (Fin.ofNat 4 (bits sb 7 6)) (Fin.ofNat 8 (bits sb 5 3)) + d) wRM,
          (⟨Fin.ofNat 8 (bits m 5 3), wR⟩ : RField), o - off)
      simpa [Nat.add_assoc, mapError_bind, bind_assoc, resolve, scaledIndex_advance] using hdisp
  split
  · simp [fetchDisp_advance_four, mapError_bind, bind_assoc, resolve]
  · have hdisp := fetchDisp_advance_bind s (bits m 7 6) (off + 1) fun d o =>
      .ok (RM.mem (s.reg (Fin.ofNat 8 (bits m 2 0)) + d) wRM, (⟨Fin.ofNat 8 (bits m 5 3), wR⟩ : RField), o - off)
    simpa [Nat.add_assoc, mapError_bind, bind_assoc, resolve] using hdisp

end Sys2Proof.Machine

open Sys2Proof Sys2Proof.Machine

/-- Settles O4: the decoder's answer is an encoding, and the step runs it. -/
theorem stepRunsDecodedInstr : Obligations.StepRunsDecodedInstr := by
  unfold Obligations.StepRunsDecodedInstr
  intro s i n hrun h
  refine ⟨(decodeFrom_ok s.fetchSource_bounded h).1, ?_⟩
  rw [step_of_running hrun, h]
  rfl

/-- Settles O5: the bytes in memory are read as they stand, since no address of theirs wraps. -/
theorem stepRunsStoredInstr : Obligations.StepRunsStoredInstr := by
  unfold Obligations.StepRunsStoredInstr
  intro i s hwf hrun hsize hfits hbytes
  rw [step_of_running hrun, decodeFrom_of_holds hwf (State.fetchSource_holds hsize hfits hbytes)]
  rfl

end

section
/-! SUPPORT. The reference decoder's contract and table (spec/30_encoding.md R78, R79). -/

namespace Sys2Proof

open Machine

/-! ### What the addressing bytes depend on (R131) -/

/-- A source that answers alike up to the end of the addressing bytes has the same ones. -/
theorem AddressingAt.of_agree {src src' : ByteSource} {off off' : Nat} {am : Addressing} {r : Reg}
    (h : AddressingAt src off am r off') (ha : src.Agree src' off') : AddressingAt src' off am r off' := by
  cases h with
  | reg hm hmod => exact .reg (by rwa [← ha.fetch (by omega)]) hmod
  | base hm hmod hrm hnot hd =>
    obtain ⟨-, rfl, -, hagree⟩ := decodeDisp_ok hd
    exact .base (by rwa [← ha.fetch (by omega)]) hmod hrm hnot (hagree src' ha)
  | abs hm hmod hrm hd =>
    exact .abs (by rwa [← ha.fetch (by omega)]) hmod hrm (by rwa [← ha.fetch (by omega)])
  | sib hm hmod hrm hsb hnot hd =>
    obtain ⟨-, rfl, -, hagree⟩ := decodeDisp_ok hd
    exact .sib (by rwa [← ha.fetch (by omega)]) hmod hrm (by rwa [← ha.fetch (by omega)]) hnot (hagree src' ha)
  | sibAbs hm hmod hrm hsb hb hd =>
    exact .sibAbs (by rwa [← ha.fetch (by omega)]) hmod hrm (by rwa [← ha.fetch (by omega)]) hb
      (by rwa [← ha.fetch (by omega)])

theorem decodeDisp_congr {src src' : ByteSource} {len off : Nat} (ha : src.Agree src' len) (hoff : off + 4 ≤ len)
    (mod : Nat) : decodeDisp src mod off = decodeDisp src' mod off := by
  unfold decodeDisp
  rw [ha.fetch (show off + 1 ≤ len by omega), ha.fetch hoff]

/-- No more than six bytes matter, a stop included. -/
theorem decodeAddressing_congr {src src' : ByteSource} {off : Nat} (ha : src.Agree src' (off + 6)) :
    decodeAddressing src off = decodeAddressing src' off := by
  have hm : fetch src off 1 = fetch src' off 1 := ha.fetch (by omega)
  have hsb : fetch src (off + 1) 1 = fetch src' (off + 1) 1 := ha.fetch (by omega)
  have habs : fetch src (off + 1) 4 = fetch src' (off + 1) 4 := ha.fetch (by omega)
  have hsibAbs : fetch src (off + 2) 4 = fetch src' (off + 2) 4 := ha.fetch (by omega)
  have hbase := decodeDisp_congr (off := off + 1) ha (by omega)
  have hsib := decodeDisp_congr (off := off + 2) ha (by omega)
  simp only [decodeAddressing, hm, hsb, habs, hsibAbs, hbase, hsib]

theorem decodeDisp_error {src : ByteSource} {mod off : Nat} {stop : DecodeStop}
    (h : decodeDisp src mod off = .error stop) : ∃ n, fetch src off n = .error stop := by
  unfold decodeDisp at h
  split at h
  · cases h
  all_goals
    obtain h | ⟨d, -, h⟩ := bind_error h
    · exact ⟨_, h⟩
    · cases h

/-- The decoder stops in the addressing bytes at one of its three reads, the one that fails. -/
theorem decodeAddressing_error {src : ByteSource} {off : Nat} {stop : DecodeStop}
    (h : decodeAddressing src off = .error stop) : ∃ k n, k ≤ 2 ∧ fetch src (off + k) n = .error stop := by
  obtain h | ⟨m, -, h⟩ := bind_error h
  · exact ⟨0, _, by decide, h⟩
  dsimp only at h
  split at h
  · cases h
  split at h
  · obtain h | ⟨sb, -, h⟩ := bind_error h
    · exact ⟨1, _, by decide, h⟩
    split at h
    · obtain h | ⟨d, -, h⟩ := bind_error h
      · exact ⟨2, _, by decide, h⟩
      · cases h
    · obtain h | ⟨d, -, h⟩ := bind_error h
      · obtain ⟨n, h⟩ := decodeDisp_error h
        exact ⟨2, n, by decide, h⟩
      · cases h
  split at h
  · obtain h | ⟨d, -, h⟩ := bind_error h
    · exact ⟨1, _, by decide, h⟩
    · cases h
  · obtain h | ⟨d, -, h⟩ := bind_error h
    · obtain ⟨n, h⟩ := decodeDisp_error h
      exact ⟨1, n, by decide, h⟩
    · cases h

@[simp] theorem Disp.addend_none : Disp.none.addend = 0#32 := rfl

@[simp] theorem Disp.addend_disp32 (d : BitVec 32) : (Disp.disp32 d).addend = d := rfl

/-- A 1-byte displacement is sign-extended (R76, R105). -/
@[simp] theorem Disp.addend_disp8 (d : BitVec 8) : (Disp.disp8 d).addend = d.signExtend 32 := by
  have hd := d.isLt
  apply BitVec.eq_of_toNat_eq
  rw [Disp.addend, BitVec.toNat_ofNat, BitVec.toNat_signExtend, BitVec.msb_eq_decide]
  simp [sext, signbit, Width.mod, Width.bytes]
  split <;> split <;> omega

end Sys2Proof

namespace Sys2Proof.Machine

open Claims

theorem mapError_eq_ok_iff {ε ε' α : Type} {g : ε → ε'} {x : Except ε α} {a : α} :
    x.mapError g = .ok a ↔ x = .ok a := by
  cases x <;> simp [Except.mapError]

theorem mapError_eq_error_iff {ε ε' α : Type} {g : ε → ε'} {x : Except ε α} {e : ε'} :
    x.mapError g = .error e ↔ ∃ e', x = .error e' ∧ g e' = e := by
  cases x <;> simp [Except.mapError]

/-- The scaled index as a shift (R77). -/
theorem indexValue_eq (s : State) (scale : Fin 4) (index : Reg) :
    indexValue s scale index = scaledIndex s scale index := by
  unfold indexValue scaledIndex
  split
  · rfl
  · apply BitVec.eq_of_toNat_eq
    simp [Nat.shiftLeft_eq]

theorem State.advance_zero (s : State) : s.advance 0 = s := by
  simp [State.advance]

/-- `DEC_REF` is the decoder's addressing bytes at `ip`, the term resolved. -/
theorem decRef_eq (wRM wR : Width) (s : State) :
    decRef wRM wR s =
      (decodeAddressing s.fetchSource 0).mapError s.stopFault >>= fun (am, r, n) =>
        .ok (resolve am wRM s, ⟨r, wR⟩, n) := by
  have h := decRef_advance wRM wR s 0
  rwa [State.advance_zero] at h

theorem decRef_ok_iff {wRM wR : Width} {s : State} {rm : RM} {r : RField} {n : Nat} :
    decRef wRM wR s = .ok (rm, r, n) ↔
      ∃ am reg, AddressingAt s.fetchSource 0 am reg n ∧ rm = resolve am wRM s ∧ r = ⟨reg, wR⟩ := by
  rw [decRef_eq]
  simp only [← decodeAddressing_ok_iff]
  constructor
  · intro h
    obtain ⟨⟨am, reg, n'⟩, ha, h⟩ := bind_ok h
    cases h
    exact ⟨am, reg, mapError_eq_ok_iff.mp ha, rfl, rfl⟩
  · rintro ⟨am, reg, ha, rfl, rfl⟩
    rw [ha]
    rfl

/-- `DEC_REF` faults at one of its three reads, the one that fails. -/
theorem decRef_error {wRM wR : Width} {s : State} {f : Fault} (h : decRef wRM wR s = .error f) :
    ∃ k n, k ≤ 2 ∧ s.memRead (s.ip + BitVec.ofNat 32 k) n = .error f := by
  rw [decRef_eq] at h
  obtain h | ⟨a, -, h⟩ := bind_error h
  · obtain ⟨stop, hstop, rfl⟩ := mapError_eq_error_iff.mp h
    obtain ⟨k, n, hk, hread⟩ := decodeAddressing_error hstop
    rw [Nat.zero_add] at hread
    exact ⟨k, n, hk, by rw [← fetch_fetchSource, hread]; rfl⟩
  · cases h

theorem resolve_congr {s t : State} (h : s.regs = t.regs) (am : Addressing) (w : Width) :
    resolve am w s = resolve am w t := by
  cases am <;> simp [resolve, scaledIndex, State.reg, h]

theorem SameAtIp.agree {n : Nat} {s t : State} (h : SameAtIp n s t) (hm : s.memSize ≤ Config.addressSpace) :
    s.fetchSource.Agree t.fetchSource n := by
  intro off k hk
  unfold State.fetchSource
  rw [h.memRead hm hk]

theorem decRef_congr {wRM wR : Width} {s t : State} (hregs : s.regs = t.regs) (hip : s.ip = t.ip)
    (ha : s.fetchSource.Agree t.fetchSource 6) : decRef wRM wR s = decRef wRM wR t := by
  have hstop : s.stopFault = t.stopFault := by
    funext stop
    cases stop <;> simp [State.stopFault, hip]
  simp only [decRef_eq, decodeAddressing_congr ha, hstop, resolve_congr hregs]

theorem decRef_described : AddrDecoder.Described decRef := by
  intro wRM wR s rm r n h
  obtain ⟨am, reg, ha, rfl, rfl⟩ := decRef_ok_iff.mp h
  obtain ⟨-, hn, -⟩ := ha.encodes s.fetchSource_bounded
  have hlen := Laws.Encoding.addressing_length am reg
  exact ⟨resolve_width am wRM s, rfl, by omega⟩

theorem decRef_repeatable : AddrDecoder.Repeatable decRef := by
  intro wRM wR s t hregs hmem hsize hip
  refine decRef_congr hregs hip fun off n _ => ?_
  have hread (a : Word) : s.memRead a n = t.memRead a n := by
    rw [State.memRead, State.memAdmit, hmem, hsize, State.memRead, State.memAdmit]
  simp only [State.fetchSource, hip, hread]

theorem decRef_readsAtIp : AddrDecoder.ReadsAtIp decRef := by
  intro wRM wR s t rm r n hsize hsame h
  obtain ⟨am, reg, ha, rfl, rfl⟩ := decRef_ok_iff.mp h
  exact decRef_ok_iff.mpr ⟨am, reg, ha.of_agree (hsame.agree hsize), resolve_congr hsame.1 am wRM, rfl⟩

theorem State.fetchSource_fetch {s : State} {off n v : Nat} (h : s.memRead (s.ip + BitVec.ofNat 32 off) n = .ok v) :
    fetch s.fetchSource off n = .ok v :=
  fetch_ok_iff.mpr (State.fetchSource_eq_some_iff.mpr h)

/-- A byte in memory is read with the fields that it is put together from. -/
theorem State.fetchSource_fetch_fields {s : State} {off : Nat} {hi : Fin 4} {mid lo : Reg}
    (h : s.memRead (s.ip + BitVec.ofNat 32 off) 1 = .ok (hi.val * 64 + mid.val * 8 + lo.val)) :
    ∃ m, fetch s.fetchSource off 1 = .ok m ∧ bits m 7 6 = hi.val ∧ bits m 5 3 = mid.val ∧ bits m 2 0 = lo.val :=
  ⟨_, State.fetchSource_fetch h, bits_fields hi.isLt mid.isLt lo.isLt⟩

end Sys2Proof.Machine

open Sys2Proof Sys2Proof.Machine Sys2Proof.Claims

/-- Settles O27: `DEC_REF` is the decoder's addressing bytes, which are one to six, with their term resolved; its reads
are all at `ip`. -/
theorem decRefMeetsContract : Obligations.DecRefMeetsContract := by
  unfold Obligations.DecRefMeetsContract
  refine ⟨⟨decRef_described, decRef_repeatable, decRef_readsAtIp⟩, ?_, ?_, ?_⟩
  · intro wRM wR s t hsize hsame
    have ⟨hregs, _, hip, _⟩ := hsame
    exact decRef_congr hregs hip (hsame.agree hsize)
  · intro wRM wR s rm r n h
    obtain ⟨am, reg, ha, -, -⟩ := decRef_ok_iff.mp h
    obtain ⟨-, hn, -⟩ := ha.encodes s.fetchSource_bounded
    have hlen := Laws.Encoding.addressing_length am reg
    omega
  · intro wRM wR s f h
    obtain ⟨k, n, hk, hread⟩ := decRef_error h
    exact ⟨k, n, (State.memRead_error hread).2, hk, hread⟩

/-- Settles O28: each row of the table is one path through the addressing bytes. -/
theorem decRefTable : Obligations.DecRefTable := by
  unfold Obligations.DecRefTable
  intro wRM wR s mod reg rm hm
  obtain ⟨m, hm, hmod, hreg, hrm⟩ := State.fetchSource_fetch_fields (off := 0) (by simpa using hm)
  simp only [decRef_eq, decodeAddressing, hm, hmod, hreg, hrm, ok_bind]
  refine ⟨?_, ?_, ?_, ?_, ?_, ?_⟩
  · rintro rfl
    simp [resolve]
  · rintro rfl h4 h5
    have h4 : rm.val ≠ 4 := Fin.val_ne_iff.mpr h4
    have h5 : rm.val ≠ 5 := Fin.val_ne_iff.mpr h5
    simp [h4, h5, resolve, decodeDisp]
  · rintro rfl rfl d hd
    simp [resolve, State.fetchSource_fetch hd]
  · rintro rfl h4 d hd
    have h4 : rm.val ≠ 4 := Fin.val_ne_iff.mpr h4
    simp [h4, resolve, decodeDisp, State.fetchSource_fetch hd]
  · rintro rfl h4 d hd
    have h4 : rm.val ≠ 4 := Fin.val_ne_iff.mpr h4
    simp [h4, resolve, decodeDisp, State.fetchSource_fetch hd]
  · rintro rfl scale index b hsb
    obtain ⟨sb, hsb, hscale, hindex, hb⟩ := State.fetchSource_fetch_fields hsb
    simp only [hsb, hscale, hindex, hb, ok_bind, indexValue_eq]
    refine ⟨?_, ?_, ?_, ?_⟩
    · rintro rfl h5
      have h5 : b.val ≠ 5 := Fin.val_ne_iff.mpr h5
      simp [h5, resolve, decodeDisp]
    · rintro rfl rfl d hd
      simp [resolve, State.fetchSource_fetch hd, BitVec.add_comm]
    · rintro rfl d hd
      simp [resolve, decodeDisp, State.fetchSource_fetch hd]
    · rintro rfl d hd
      simp [resolve, decodeDisp, State.fetchSource_fetch hd]

end

section
/-! SUPPORT. The dispatcher's candidates (spec/30_encoding.md R84, R85): of two candidates of an opcode byte at most one
decides. -/

namespace Sys2Proof.Machine

/-! ### One handler invocation (R140) -/

/-- The reply of a commit (R142). -/
def Reply.ofCommit : Except Fault State → Reply
  | .ok t => .matched t
  | .error f => .fault f

/-- S4 to S9, the extension having been checked (R140). -/
def Handler.finish (h : Handler) (rm : RM) (r : Reg) (s : State) : Reply :=
  .ofCommit (h.fetchStep s >>= fun (imm, t) => h.commit rm r imm t)

theorem Handler.run_of_decodeStep_error {dec : AddrDecoder} {h : Handler} {s : State} {f : Fault}
    (hd : h.decodeStep dec s = .error f) : h.run dec s = .fault f := by
  rw [Handler.run, hd]

/-- Once S2 has answered, a handler rolls back to the state it was called in or goes on to commit (R142, R143). -/
theorem Handler.run_of_decodeStep_ok {dec : AddrDecoder} {h : Handler} {s t : State} {rm : RM} {r : RField}
    (hd : h.decodeStep dec s = .ok (rm, r, t)) :
    h.run dec s = if h.mismatch r then .notMatched s else h.finish rm r.val t := by
  have hback : t.setIp s.ip = s := by
    obtain ⟨-, rfl, -⟩ | ⟨-, n, -, rfl⟩ := Handler.decodeStep_ok hd <;> rfl
  simp only [Handler.run, hd, hback, Handler.finish]
  cases h.fetchStep t with
  | error f => rfl
  | ok p =>
    simp only [ok_bind]
    cases h.commit rm r.val p.1 p.2 <;> rfl

/-- A handler that does not match leaves the state as it was (R143). -/
theorem invoke_notMatched {dec : AddrDecoder} {c : Command} {s t : State} (h : invoke dec c s = .notMatched t) :
    t = s := by
  unfold invoke at h
  split at h
  · cases h
  · next g _ =>
    cases hd : g.decodeStep dec s with
    | error f =>
      rw [Handler.run_of_decodeStep_error hd] at h
      cases h
    | ok a =>
      obtain ⟨rm, r, u⟩ := a
      rw [Handler.run_of_decodeStep_ok hd] at h
      split at h
      · cases h
        rfl
      · unfold Handler.finish Reply.ofCommit at h
        split at h <;> cases h

/-! ### Candidates that exclude each other (R85) -/

/-- Both forms decode the addressing bytes at one width and check different extensions. -/
def Handler.Exclusive (h g : Handler) : Prop :=
  h.addressed = true ∧ g.addressed = true ∧ h.width = g.width ∧ ∃ e e', h.ext = some e ∧ g.ext = some e' ∧ e ≠ e'

theorem Handler.Exclusive.symm {h g : Handler} (hg : h.Exclusive g) : g.Exclusive h := by
  obtain ⟨ha, hb, hw, e, e', he, he', hne⟩ := hg
  exact ⟨hb, ha, hw.symm, e', e, he', he, hne.symm⟩

/-- At most one of two commands decides: both raise one fault, or one of them does not match. -/
def OneDecides (dec : AddrDecoder) (s : State) (c d : Command) : Prop :=
  (∃ f, invoke dec c s = .fault f ∧ invoke dec d s = .fault f) ∨
    invoke dec c s = .notMatched s ∨ invoke dec d s = .notMatched s

theorem Handler.Exclusive.run {h g : Handler} (hg : h.Exclusive g) (dec : AddrDecoder) (s : State) :
    (∃ f, h.run dec s = .fault f ∧ g.run dec s = .fault f) ∨ h.run dec s = .notMatched s ∨
      g.run dec s = .notMatched s := by
  obtain ⟨ha, hb, hw, e, e', he, he', hne⟩ := hg
  have hsame : h.decodeStep dec s = g.decodeStep dec s := by
    simp only [Handler.decodeStep, ha, hb, hw]
  cases hd : g.decodeStep dec s with
  | error f => exact .inl ⟨f, Handler.run_of_decodeStep_error (hsame.trans hd), Handler.run_of_decodeStep_error hd⟩
  | ok a =>
    obtain ⟨rm, r, t⟩ := a
    rw [Handler.run_of_decodeStep_ok hd, Handler.run_of_decodeStep_ok (hsame.trans hd)]
    by_cases hr : r.val = e
    · have : g.mismatch r = true := by
        simp [Handler.mismatch, he', hr, hne]
      simp [this]
    · have : h.mismatch r = true := by
        simp [Handler.mismatch, he, hr]
      simp [this]

/-- The immediate of a form that sign-extends it is no wider than the operand (R71). -/
def Handler.ImmFits : Handler → Prop
  | .aluAccImm _ w iw => iw.bytes ≤ w.bytes
  | .aluRmImm _ w iw => iw.bytes ≤ w.bytes
  | _ => True

theorem widthOfCode_widthCode (w : Width) : widthOfCode (widthCode w) = some w := by
  cases w <;> rfl

theorem aluOpOfCode_aluOpCode (op : AluOp) : aluOpOfCode (aluOpCode op) = some op ∧ (aluOpCode op).val ≤ 8 := by
  rcases op with ⟨⟨⟩⟩ | ⟨⟨⟩⟩ <;> decide

theorem unOpOfCode_unOpCode (op : UnOp) : unOpOfCode (unOpCode op) = some op ∧ (unOpCode op).val ≤ 8 := by
  cases op <;> decide

/-- S0 finds in a handler's command the handler (R71, R72). -/
theorem Handler.check_command {h : Handler} (hfits : h.ImmFits) : h.command.check = some h := by
  cases h with
  | aluAccImm op w iw | aluRmImm op w iw =>
    have hfits : iw.bytes ≤ w.bytes := hfits
    simp [hfits, Handler.command, Command.check, formOfCommand, widthOfCode_widthCode, aluOpOfCode_aluOpCode]
  | aluRmR op w | aluRRm op w =>
    simp [Handler.command, Command.check, formOfCommand, widthOfCode_widthCode, aluOpOfCode_aluOpCode]
  | unaryRm op w =>
    simp [Handler.command, Command.check, formOfCommand, widthOfCode_widthCode, unOpOfCode_unOpCode]
  | _ => simp [Handler.command, Command.check, formOfCommand, widthOfCode_widthCode]

theorem invoke_command {dec : AddrDecoder} {h : Handler} {s : State} (hfits : h.ImmFits) :
    invoke dec h.command s = h.run dec s := by
  rw [invoke, Handler.check_command hfits]

/-- What S0 and R85 need of the candidates of an opcode byte: legal commands that exclude each other. -/
def FitCandidates (hs : List Handler) : Prop := (∀ h ∈ hs, h.ImmFits) ∧ hs.Pairwise Handler.Exclusive

theorem fitCandidates_nil : FitCandidates [] := ⟨by simp, .nil⟩

theorem fitCandidates_singleton {h : Handler} (hfits : h.ImmFits) : FitCandidates [h] :=
  ⟨by simpa using hfits, List.pairwise_singleton _ _⟩

/-- The operand-immediate group: its operations have different extensions (R82, R145). -/
theorem fitCandidates_immGroup {w iw : Width} (hfits : iw.bytes ≤ w.bytes) :
    FitCandidates (immGroup.map fun op => .aluRmImm op w iw) := by
  refine ⟨by simpa [Handler.ImmFits] using fun _ _ => hfits, ?_⟩
  simp [immGroup, Handler.Exclusive, Handler.addressed, Handler.width, Handler.ext, aluExt]

/-- The unary group: TEST, NOT and NEG have different extensions (R82, R145). -/
theorem fitCandidates_unaryGroup (w : Width) :
    FitCandidates [.aluRmImm (.bitw .test) w w, .unaryRm .not w, .unaryRm .neg w] := by
  simp [FitCandidates, Handler.ImmFits, Handler.Exclusive, Handler.addressed, Handler.width, Handler.ext, aluExt, unExt]

theorem fitCandidates_sixShapes (op : AluOp) (v : Width) (k : Nat) : FitCandidates (sixShapes op v k) := by
  unfold sixShapes
  split
  case h_7 => exact fitCandidates_nil
  all_goals exact fitCandidates_singleton (by simp [Handler.ImmFits])

theorem fitCandidates_candidates (opcode : Nat) (v : Width) : FitCandidates (candidates opcode v) := by
  unfold candidates
  split
  case h_7 | h_8 => exact fitCandidates_singleton trivial
  case h_9 =>
    split
    case h_1 | h_2 => exact fitCandidates_immGroup le_rfl
    case h_3 => exact fitCandidates_immGroup (Width.bytes_pos v)
    case h_20 | h_21 => exact fitCandidates_unaryGroup _
    case h_22 => exact fitCandidates_nil
    all_goals exact fitCandidates_singleton (by simp [Handler.ImmFits])
  all_goals exact fitCandidates_sixShapes _ _ _

/-! ### The dispatcher's loop in any order (R85) -/

theorem tryCandidates_cons_of_notMatched {dec : AddrDecoder} {opaddr : Word} {opcode : Nat} {c : Command} {s : State}
    (hc : invoke dec c s = .notMatched s) (cs : List Command) :
    tryCandidates dec opaddr opcode (c :: cs) s = tryCandidates dec opaddr opcode cs s := by
  rw [tryCandidates, hc]

theorem tryCandidates_of_all_notMatched {dec : AddrDecoder} {opaddr : Word} {opcode : Nat} {cs : List Command}
    {s : State} (h : ∀ c ∈ cs, invoke dec c s = .notMatched s) :
    tryCandidates dec opaddr opcode cs s = .fault (.decodeError opaddr (BitVec.ofNat 8 opcode)) := by
  induction cs with
  | nil => rfl
  | cons c cs ih =>
    rw [tryCandidates_cons_of_notMatched (h c List.mem_cons_self)]
    exact ih fun d hd => h d (List.mem_cons_of_mem c hd)

theorem tryCandidates_cons_congr {dec : AddrDecoder} {opaddr : Word} {opcode : Nat} {cs ds : List Command} {s : State}
    (h : tryCandidates dec opaddr opcode cs s = tryCandidates dec opaddr opcode ds s) (c : Command) :
    tryCandidates dec opaddr opcode (c :: cs) s = tryCandidates dec opaddr opcode (c :: ds) s := by
  simp only [tryCandidates]
  cases hc : invoke dec c s with
  | notMatched t =>
    rw [invoke_notMatched hc]
    exact h
  | _ => rfl

/-- Where at most one of any two candidates decides, the order does not matter. -/
theorem tryCandidates_perm {dec : AddrDecoder} {opaddr : Word} {opcode : Nat} {cs ds : List Command} {s : State}
    (hp : cs.Perm ds) (h : ∀ c ∈ cs, ∀ d ∈ cs, c = d ∨ OneDecides dec s c d) :
    tryCandidates dec opaddr opcode cs s = tryCandidates dec opaddr opcode ds s := by
  induction hp with
  | nil => rfl
  | cons c _ ih =>
    exact tryCandidates_cons_congr
      (ih fun a ha b hb => h a (List.mem_cons_of_mem c ha) b (List.mem_cons_of_mem c hb)) c
  | swap c d cs =>
    obtain rfl | ⟨f, hd, hc⟩ | hd | hc := h d (by simp) c (by simp)
    · rfl
    · simp only [tryCandidates, hc, hd]
    · rw [tryCandidates_cons_of_notMatched hd]
      exact tryCandidates_cons_congr (tryCandidates_cons_of_notMatched hd cs).symm c
    · rw [tryCandidates_cons_of_notMatched hc]
      exact tryCandidates_cons_congr (tryCandidates_cons_of_notMatched hc cs) d
  | trans hp _ ih₁ ih₂ =>
    exact (ih₁ h).trans (ih₂ fun a ha b hb => h a (hp.mem_iff.mpr ha) b (hp.mem_iff.mpr hb))

/-- The candidate that decides decides for the list. -/
theorem tryCandidates_of_mem {dec : AddrDecoder} {opaddr : Word} {opcode : Nat} {cs : List Command} {c : Command}
    {s : State} (hc : c ∈ cs) (h : ∀ c ∈ cs, ∀ d ∈ cs, c = d ∨ OneDecides dec s c d)
    (hdecides : ∀ t, invoke dec c s ≠ .notMatched t) :
    tryCandidates dec opaddr opcode cs s = tryCandidates dec opaddr opcode [c] s := by
  rw [tryCandidates_perm (List.perm_cons_erase hc) h]
  simp only [tryCandidates]
  split
  · rfl
  · next t ht => exact absurd ht (hdecides t)
  · rfl

/-- Of two candidates of an opcode byte at most one decides (R85). -/
theorem opmapDefault_oneDecides (dec : AddrDecoder) (opcode : Nat) (v : Width) (s : State) :
    ∀ c ∈ opmapDefault opcode v, ∀ d ∈ opmapDefault opcode v, c = d ∨ OneDecides dec s c d := by
  obtain ⟨hfits, hpair⟩ := fitCandidates_candidates opcode v
  intro c hc d hd
  obtain ⟨h, hh, rfl⟩ := List.mem_map.mp hc
  obtain ⟨g, hg, rfl⟩ := List.mem_map.mp hd
  by_cases heq : h = g
  · exact .inl (congrArg _ heq)
  · have hsymm : Std.Symm Handler.Exclusive := ⟨fun _ _ => Handler.Exclusive.symm⟩
    have hex : h.Exclusive g := hpair.forall hh hg heq
    right
    simpa only [OneDecides, invoke_command (hfits h hh), invoke_command (hfits g hg)] using hex.run dec s

end Sys2Proof.Machine

open Sys2Proof Sys2Proof.Machine

/-- Settles O25: of two candidates of an opcode byte at most one decides, so that a permutation of them changes
nothing. -/
theorem candidateOrderIrrelevant : Obligations.CandidateOrderIrrelevant := by
  unfold Obligations.CandidateOrderIrrelevant
  intro dec opcode v s
  have hone := opmapDefault_oneDecides dec opcode v s
  refine ⟨fun c hc d hd t u ht hu => ?_, fun cs opaddr hp => ?_⟩
  · obtain rfl | ⟨f, hf, -⟩ | hn | hn := hone c hc d hd
    · rfl
    · simp [hf] at ht
    · simp [hn] at ht
    · simp [hn] at hu
  · exact (tryCandidates_perm hp.symm hone).symm

end

section
/-! SUPPORT. The step is the dispatcher with the default opcode map and `DEC_REF` (spec/30_encoding.md R84, R86, R87). -/

namespace Sys2Proof

open Machine

/-- The immediate of the v-size with a value (R74). -/
def VImm.ofNat : VSize → Nat → VImm
  | .v2, x => .word (BitVec.ofNat 16 x)
  | .v4, x => .dword (BitVec.ofNat 32 x)

@[simp] theorem VImm.ofNat_size (v : VSize) (x : Nat) : (VImm.ofNat v x).size = v := by
  cases v <;> rfl

theorem VImm.ofNat_toNat {v : VSize} {x : Nat} (h : x < 2 ^ (8 * v.width.bytes)) : (VImm.ofNat v x).toNat = x := by
  cases v
  · exact Nat.mod_eq_of_lt h
  · exact Nat.mod_eq_of_lt h

theorem decodeVImm_eq (src : ByteSource) (v : VSize) (off : Nat) :
    decodeVImm src v off = fetch src off v.width.bytes >>= fun x => .ok (VImm.ofNat v x, off + v.width.bytes) := by
  cases v <;> rfl

end Sys2Proof

namespace Sys2Proof.Machine

open Claims

/-! ### A handler on the bytes that the decoder reads (R140) -/

/-- What the handler of the decoder's answer replies. -/
def State.replyDecoded (s : State) : Except DecodeStop (Instr × Nat) → Reply
  | .ok (i, n) => .ofCommit ((handlerRun i).commit (s.advance n))
  | .error stop => .fault (s.stopFault stop)

theorem resolve_advance (am : Addressing) (w : Width) (s : State) (n : Nat) :
    resolve am w (s.advance n) = resolve am w s :=
  resolve_setIp am w s _

theorem finish_of_immBytes_none {h : Handler} {am : Addressing} {r : Reg} {i : Instr} {s : State} {off : Nat}
    (himm : h.immBytes = none) (hrun : handlerRun i = ⟨h, am, r, 0⟩) :
    h.finish (resolve am h.width s) r (s.advance off) = s.replyDecoded (.ok (i, off)) := by
  simp [Handler.finish, Handler.fetchStep, himm, State.replyDecoded, hrun, HandlerRun.commit, resolve_advance]

theorem finish_of_immBytes {h : Handler} {n : Nat} {am : Addressing} {r : Reg} {mk : Nat → Instr} {s : State}
    {off : Nat} (himm : h.immBytes = some n) (hrun : ∀ x, x < 2 ^ (8 * n) → handlerRun (mk x) = ⟨h, am, r, x⟩) :
    h.finish (resolve am h.width s) r (s.advance off) =
      s.replyDecoded (fetch s.fetchSource off n >>= fun x => .ok (mk x, off + n)) := by
  simp only [Handler.finish, Handler.fetchStep, himm, State.fetchImm_advance]
  cases hx : fetch s.fetchSource off n with
  | error stop => rfl
  | ok x =>
    simp [State.replyDecoded, hrun x (s.fetchSource_bounded.fetch hx), HandlerRun.commit, resolve_advance]

/-- A form that checks an extension reads no register field. -/
theorem Handler.finish_reg {h : Handler} {e : Reg} (he : h.ext = some e) (rm : RM) (r r' : Reg) (s : State) :
    h.finish rm r s = h.finish rm r' s := by
  cases h with
  | movRmImm w | aluRmImm op w iw | unaryRm op w => rfl
  | _ => cases he

/-- A form without addressing bytes checks no extension (R144). -/
theorem Handler.ext_of_not_addressed {h : Handler} (ha : h.addressed = false) : h.ext = none := by
  cases h with
  | movRmImm w | aluRmImm op w iw | unaryRm op w => cases ha
  | _ => rfl

theorem run_of_not_addressed {h : Handler} (ha : h.addressed = false) (dec : AddrDecoder) (s : State) (off : Nat) :
    h.run dec (s.advance off) = h.finish (resolve (.reg 0) h.width s) 0 (s.advance off) := by
  have hd : h.decodeStep dec (s.advance off) = .ok (.reg 0 h.width, ⟨0, h.width⟩, s.advance off) := by
    simp [Handler.decodeStep, ha]
  rw [Handler.run_of_decodeStep_ok hd]
  simp [Handler.mismatch, Handler.ext_of_not_addressed ha, resolve]

theorem run_of_addressing_error {h : Handler} {s : State} {off : Nat} {stop : DecodeStop} (ha : h.addressed = true)
    (hdec : decodeAddressing s.fetchSource off = .error stop) :
    h.run decRef (s.advance off) = .fault (s.stopFault stop) := by
  apply Handler.run_of_decodeStep_error
  simp [Handler.decodeStep, ha, decRef_advance, hdec, Except.mapError, bind, Except.bind]

theorem run_of_addressing_ok {h : Handler} {s : State} {off off' : Nat} {am : Addressing} {r : Reg}
    (ha : h.addressed = true) (hdec : decodeAddressing s.fetchSource off = .ok (am, r, off')) :
    h.run decRef (s.advance off) =
      if h.mismatch ⟨r, h.width⟩ then .notMatched (s.advance off)
      else h.finish (resolve am h.width s) r (s.advance off') := by
  have hoff : off + (off' - off) = off' := by
    obtain ⟨-, hoff, -⟩ := (decodeAddressing_ok_iff.mp hdec).encodes s.fetchSource_bounded
    omega
  have hd : h.decodeStep decRef (s.advance off) =
      .ok (resolve am h.width s, ⟨r, h.width⟩, s.advance off') := by
    simp [Handler.decodeStep, ha, decRef_advance, hdec, State.advance_advance, hoff]
  exact Handler.run_of_decodeStep_ok hd

/-- After the addressing bytes, a handler of a group goes on as the decoder does. -/
theorem finish_tail {v : VSize} {opcode : Nat} {h : Handler} {ext : Reg} {tail : Tail} {s : State} {am : Addressing}
    {off : Nat} (hrows : TailRows v opcode h ext tail) :
    h.finish (resolve am h.width s) 0 (s.advance off) = s.replyDecoded (decodeTail s.fetchSource v tail am off) := by
  cases tail with
  | done mk =>
    obtain ⟨himm, hrow⟩ := hrows
    exact finish_of_immBytes_none himm (hrow am).1
  | imm8 mk =>
    obtain ⟨himm, hrow⟩ := hrows
    refine finish_of_immBytes himm fun x hx => ?_
    rw [(hrow am (BitVec.ofNat 8 x)).1, BitVec.toNat_ofNat, Nat.mod_eq_of_lt hx]
  | immv mk =>
    obtain ⟨himm, hrow⟩ := hrows
    simp only [decodeTail, decodeVImm_eq, bind_assoc, ok_bind]
    refine finish_of_immBytes himm fun x hx => ?_
    rw [(hrow am (VImm.ofNat v x) (VImm.ofNat_size v x)).1, VImm.ofNat_toNat hx]

/-! ### The candidates on the bytes that the decoder reads (R84) -/

/-- A candidate that replies what the decoder's answer replies decides alone. -/
theorem tryCandidates_singleton {dec : AddrDecoder} {opaddr : Word} {opcode : Nat} {c : Command} {s t : State}
    {x : Except DecodeStop (Instr × Nat)} (hc : invoke dec c t = s.replyDecoded x) :
    tryCandidates dec opaddr opcode [c] t = s.runDecoded x := by
  rw [tryCandidates, hc]
  cases x with
  | error stop => rfl
  | ok a =>
    simp only [State.replyDecoded, State.runDecoded, exec_eq_commit]
    cases (handlerRun a.1).commit (s.advance a.2) <;> rfl

theorem State.replyDecoded_ne_notMatched (s t : State) (x : Except DecodeStop (Instr × Nat)) :
    s.replyDecoded x ≠ .notMatched t := by
  unfold State.replyDecoded Reply.ofCommit
  split
  · split <;> simp
  · simp

/-- One candidate of an opcode byte that replies what the decoder's answer replies settles the list. -/
theorem tryCandidates_of_run {opaddr : Word} {opcode : Nat} {v : Width} {h : Handler} {s t : State}
    {x : Except DecodeStop (Instr × Nat)} (hh : h ∈ candidates opcode v) (hrun : h.run decRef t = s.replyDecoded x) :
    tryCandidates decRef opaddr opcode (opmapDefault opcode v) t = s.runDecoded x := by
  have hinvoke : invoke decRef h.command t = s.replyDecoded x := by
    rw [invoke_command ((fitCandidates_candidates opcode v).1 h hh), hrun]
  have hc : h.command ∈ opmapDefault opcode v := List.mem_map_of_mem hh
  rw [tryCandidates_of_mem hc (opmapDefault_oneDecides decRef opcode v t)
    fun u => hinvoke ▸ s.replyDecoded_ne_notMatched u x]
  exact tryCandidates_singleton hinvoke

/-- Candidates that all differ from the extension in the addressing bytes are exhausted (R87). -/
theorem tryCandidates_of_mismatch {opaddr : Word} {opcode : Nat} {v : Width} {s : State} {off off' : Nat}
    {am : Addressing} {ext : Reg} (hdec : decodeAddressing s.fetchSource off = .ok (am, ext, off'))
    (hne : ∀ h ∈ candidates opcode v, h.addressed = true ∧ h.ext.isSome = true ∧ h.ext ≠ some ext) :
    tryCandidates decRef opaddr opcode (opmapDefault opcode v) (s.advance off) =
      .fault (.decodeError opaddr (BitVec.ofNat 8 opcode)) := by
  refine tryCandidates_of_all_notMatched fun c hc => ?_
  obtain ⟨h, hh, rfl⟩ := List.mem_map.mp hc
  obtain ⟨ha, hsome, hext⟩ := hne h hh
  obtain ⟨e, he⟩ := Option.isSome_iff_exists.mp hsome
  have hdiffers : ext ≠ e := fun heq => hext (heq ▸ he)
  have hmis : h.mismatch ⟨ext, h.width⟩ = true := by simp [Handler.mismatch, he, hdiffers]
  rw [invoke_command ((fitCandidates_candidates opcode v).1 h hh), run_of_addressing_ok ha hdec, if_pos hmis]

/-- The candidates of an opcode byte answer what the decoder answers on its form. -/
theorem tryCandidates_decodeForm {opcode : Nat} {v : VSize} {form : Form} {s : State} {off : Nat}
    (hrows : FormRows v opcode (candidates opcode v.width) form) :
    tryCandidates decRef s.ip opcode (opmapDefault opcode v.width) (s.advance off) =
      s.runDecoded (decodeForm s.fetchSource opcode v form off) := by
  cases form with
  | addressed mk =>
    obtain ⟨h, hs, ha, he, himm, hrow⟩ := hrows
    refine tryCandidates_of_run (h := h) (by simp [hs]) ?_
    cases hdec : decodeAddressing s.fetchSource off with
    | error stop => simp [run_of_addressing_error ha hdec, decodeForm, hdec, State.replyDecoded, bind, Except.bind]
    | ok a =>
      obtain ⟨am, r, off'⟩ := a
      simp [run_of_addressing_ok ha hdec, Handler.mismatch, he, decodeForm, hdec,
        finish_of_immBytes_none himm (hrow am r).1]
  | group pick =>
    obtain ⟨hne, ha, hgroup⟩ := hrows
    cases hdec : decodeAddressing s.fetchSource off with
    | error stop =>
      obtain ⟨h, hh⟩ := List.exists_mem_of_ne_nil _ hne
      refine tryCandidates_of_run hh ?_
      simp [run_of_addressing_error (ha h hh).1 hdec, decodeForm, hdec, State.replyDecoded, bind, Except.bind]
    | ok a =>
      obtain ⟨am, ext, off'⟩ := a
      specialize hgroup ext
      cases hpick : pick ext with
      | none =>
        rw [hpick] at hgroup
        rw [tryCandidates_of_mismatch hdec fun h hh => ⟨(ha h hh).1, (ha h hh).2, hgroup h hh⟩]
        simp [decodeForm, hdec, hpick, State.runDecoded, State.stopFault]
      | some tail =>
        rw [hpick] at hgroup
        obtain ⟨h, hh, he, htail⟩ := hgroup
        refine tryCandidates_of_run hh ?_
        simp [run_of_addressing_ok (ha h hh).1 hdec, Handler.mismatch, he, decodeForm, hdec, hpick,
          Handler.finish_reg he _ ext 0, finish_tail htail]
  | imm8 mk =>
    obtain ⟨h, hs, ha, himm, hrow⟩ := hrows
    refine tryCandidates_of_run (h := h) (by simp [hs]) ?_
    rw [run_of_not_addressed ha]
    refine finish_of_immBytes himm fun x hx => ?_
    rw [(hrow (BitVec.ofNat 8 x)).1, BitVec.toNat_ofNat, Nat.mod_eq_of_lt hx]
  | immv mk =>
    obtain ⟨h, hs, ha, himm, hrow⟩ := hrows
    refine tryCandidates_of_run (h := h) (by simp [hs]) ?_
    rw [run_of_not_addressed ha]
    simp only [decodeForm, decodeVImm_eq, bind_assoc, ok_bind]
    refine finish_of_immBytes himm fun x hx => ?_
    rw [(hrow (VImm.ofNat v x) (VImm.ofNat_size v x)).1, VImm.ofNat_toNat hx]
  | moffs mk =>
    obtain ⟨h, hs, ha, himm, hrow⟩ := hrows
    refine tryCandidates_of_run (h := h) (by simp [hs]) ?_
    rw [run_of_not_addressed ha]
    refine finish_of_immBytes himm fun x hx => ?_
    have hx : x < 2 ^ 32 := hx
    rw [(hrow (BitVec.ofNat 32 x)).1, BitVec.toNat_ofNat, Nat.mod_eq_of_lt hx]

theorem tryCandidates_decodeOpcode (s : State) (opcode : Nat) (v : VSize) (off : Nat) :
    tryCandidates decRef s.ip opcode (opmapDefault opcode v.width) (s.advance off) =
      s.runDecoded (decodeOpcode s.fetchSource opcode v.p66 v off) := by
  unfold decodeOpcode
  split
  · next form hform => exact tryCandidates_decodeForm (opcodeForm_rows hform)
  · next hnone =>
    rw [opmapDefault, candidates_of_opcodeForm_none hnone]
    rfl

/-! ### The dispatcher's step (R84) -/

/-- The dispatcher answers what the decoder answers, run. -/
theorem dispatch_of_running {s : State} (h : Running s) :
    dispatch opmapDefault decRef s = s.runDecoded (decodeFrom s.fetchSource) := by
  have hb := s.fetchImm_advance 0 1
  rw [State.advance_zero] at hb
  simp only [dispatch, if_neg h.2, hb, decodeFrom]
  cases fetch s.fetchSource 0 1 with
  | error stop => rfl
  | ok b =>
    simp only [ok_bind, mapError_ok, Nat.zero_add]
    by_cases h66 : b = 0x66
    · simp only [h66, if_true, State.fetchImm_advance]
      cases fetch s.fetchSource 1 1 with
      | error stop => rfl
      | ok b' => exact tryCandidates_decodeOpcode s b' .v2 2
    · simp only [h66, if_false]
      exact tryCandidates_decodeOpcode s b .v4 1

/-- A step on an opcode byte in first position tries its candidates at v-size 4. -/
theorem step_of_opcode {s : State} {b : Nat} (h : Running s) (hb : s.memRead s.ip 1 = .ok b) (h66 : b ≠ 0x66) :
    step s = tryCandidates decRef s.ip b (opmapDefault b .w4) (s.advance 1) := by
  have hread : fetch s.fetchSource 0 1 = .ok b := State.fetchSource_fetch (by simpa using hb)
  rw [step_of_running h, decodeFrom, hread, ok_bind, if_neg h66]
  exact (tryCandidates_decodeOpcode s b .v4 1).symm

/-- A step on an opcode byte after the byte 0x66 tries its candidates at v-size 2. -/
theorem step_of_prefixed_opcode {s : State} {b : Nat} (h : Running s) (hp : s.memRead s.ip 1 = .ok 0x66)
    (hb : s.memRead (s.ip + 1#32) 1 = .ok b) :
    step s = tryCandidates decRef s.ip b (opmapDefault b .w2) (s.advance 2) := by
  have hread : fetch s.fetchSource 0 1 = .ok 0x66 := State.fetchSource_fetch (by simpa using hp)
  rw [step_of_running h, decodeFrom, hread, ok_bind, if_pos rfl, State.fetchSource_fetch hb]
  exact (tryCandidates_decodeOpcode s b .v2 2).symm

/-- The candidates of a shared opcode byte all differ from a reserved extension (R87). -/
theorem candidates_of_reserved {b : Nat} {ext : Reg} (h : Reserved b ext) (v : Width) :
    ∀ h ∈ candidates b v, h.addressed = true ∧ h.ext.isSome = true ∧ h.ext ≠ some ext := by
  obtain ⟨hb, he⟩ | ⟨hb, he⟩ | ⟨hb, he⟩ := h
  · simp only [List.mem_cons, List.not_mem_nil, or_false] at hb he
    obtain rfl | rfl | rfl := hb <;>
      simp [candidates, immGroup, Handler.addressed, Handler.ext, aluExt, Fin.ext_iff] <;> omega
  · simp only [List.mem_cons, List.not_mem_nil, or_false] at hb
    obtain rfl | rfl := hb <;> simp [candidates, Handler.addressed, Handler.ext, Fin.ext_iff] <;> omega
  · simp only [List.mem_cons, List.not_mem_nil, or_false] at hb he
    obtain rfl | rfl := hb <;>
      simp [candidates, Handler.addressed, Handler.ext, aluExt, unExt, Fin.ext_iff] <;> omega

theorem ne_66_of_reserved {b : Nat} {ext : Reg} (h : Reserved b ext) : b ≠ 0x66 := by
  rintro rfl
  simp [Reserved] at h

/-- `DEC_REF` answers where the decoder reads the addressing bytes. -/
theorem decodeAddressing_of_decRef {wRM wR : Width} {s : State} {off n : Nat} {rm : RM} {r : RField}
    (h : decRef wRM wR (s.advance off) = .ok (rm, r, n)) :
    ∃ am off', decodeAddressing s.fetchSource off = .ok (am, r.val, off') := by
  rw [decRef_advance] at h
  obtain ⟨⟨am, reg, off'⟩, hdec, h⟩ := bind_ok h
  cases h
  exact ⟨am, off', mapError_eq_ok_iff.mp hdec⟩

end Sys2Proof.Machine

open Sys2Proof Sys2Proof.Machine Sys2Proof.Claims

/-- Settles O6: the candidates of the opcode byte answer what the decoder answers, its stop as the fault. -/
theorem stepIsDispatch : Obligations.StepIsDispatch := by
  unfold Obligations.StepIsDispatch
  intro s hidle
  by_cases hend : s.ended
  · have hip : s.ip = s.haltAddr := hend
    simp only [step, dispatch, hidle, if_pos hip]
  · rw [step_of_running ⟨hidle, hend⟩, dispatch_of_running ⟨hidle, hend⟩]

/-- Settles O29: the dispatcher has no candidate to try. -/
theorem unlistedOpcodeIsDecodeError : Obligations.UnlistedOpcodeIsDecodeError := by
  unfold Obligations.UnlistedOpcodeIsDecodeError
  intro s b hrun
  refine ⟨fun hb h66 hnil => ?_, fun hp hb hnil => ?_, rfl⟩
  · rw [step_of_opcode hrun hb h66, hnil, tryCandidates]
  · rw [step_of_prefixed_opcode hrun hp hb, hnil, tryCandidates]

/-- Settles O30: every candidate of the opcode byte rolls back. -/
theorem reservedExtensionIsDecodeError : Obligations.ReservedExtensionIsDecodeError := by
  unfold Obligations.ReservedExtensionIsDecodeError
  intro s b rm r n hrun hres
  refine ⟨fun hb hdec => ?_, fun hp hb hdec => ?_⟩
  · obtain ⟨am, off', hdec⟩ := decodeAddressing_of_decRef hdec
    rw [step_of_opcode hrun hb (ne_66_of_reserved hres), tryCandidates_of_mismatch hdec (candidates_of_reserved hres _)]
  · obtain ⟨am, off', hdec⟩ := decodeAddressing_of_decRef hdec
    rw [step_of_prefixed_opcode hrun hp hb, tryCandidates_of_mismatch hdec (candidates_of_reserved hres _)]

end

section
/-! SUPPORT. Proofs of the statements of spec/40_width_flag_primitives.md. The sign bit is the upper half of the masked
pattern and an unmasked sum stays below `2 * MOD(w)` (R103, R111), so that the closed forms are linear arithmetic over
`MOD(w)` and its half. -/

namespace Sys2Proof

/-! ### `MOD(w)` and `MAX(w)` (R100) -/

theorem Width.max_add_one (w : Width) : w.max + 1 = w.mod := Nat.sub_add_cancel Nat.one_le_two_pow

theorem Width.le_max_iff {w : Width} {v : Nat} : v ≤ w.max ↔ v < w.mod := by
  rw [← w.max_add_one, Nat.lt_succ_iff]

theorem Width.mod_le_mod {iw w : Width} (h : iw.bytes ≤ w.bytes) : iw.mod ≤ w.mod :=
  Nat.pow_le_pow_right Nat.two_pos (Nat.mul_le_mul_left 8 h)

/-- Bit `8w` of a pattern has the weight `MOD(w)`. -/
theorem Width.two_pow_succ (w : Width) : 2 ^ (8 * w.bytes + 1) = 2 * w.mod := Nat.pow_succ'

/-- The top bit of a number of two halves says in which half it lies. -/
theorem topBit_eq_decide {n x : Nat} (h : x < 2 * n) : (x / n % 2 == 1) = decide (n ≤ x) := by
  by_cases hx : n ≤ x
  · have hone : x / n = 1 := Nat.div_eq_of_lt_le (by omega) (by omega)
    simp [hone, hx]
  · have hzero : x / n = 0 := Nat.div_eq_of_lt (by omega)
    simp [hzero, hx]

end Sys2Proof

namespace Sys2Proof.Machine

open Claims

/-! ### Truncation and the sign bit (R102, R103) -/

theorem two_mul_half (w : Width) : 2 * half w = w.mod := by cases w <;> rfl

/-- The sign bit lies below the mask (R112). -/
theorem signbit_eq_decide (w : Width) (v : Nat) : signbit w v = decide (half w ≤ trunc w v) := by
  have hlt : trunc w v < 2 * half w := by
    rw [two_mul_half]
    exact trunc_lt w v
  rw [← topBit_eq_decide hlt, trunc, ← two_mul_half, Nat.mul_comm, Nat.mod_mul_right_div_self, Nat.mod_mod]
  rfl

theorem signbit_of_lt {w : Width} {v : Nat} (h : v < w.mod) : signbit w v = decide (half w ≤ v) := by
  rw [signbit_eq_decide, trunc_of_lt h]

@[simp] theorem trunc_mod (w : Width) : trunc w w.mod = 0 := Nat.mod_self _

/-- The only sums that mask to zero (R112). -/
theorem trunc_eq_zero_iff {w : Width} {v : Nat} (h : v < 2 * w.mod) : trunc w v = 0 ↔ v = 0 ∨ v = w.mod := by
  constructor
  · intro hv
    obtain ⟨k, rfl⟩ := Nat.dvd_of_mod_eq_zero hv
    have hk : k < 2 := Nat.lt_of_mul_lt_mul_left (Nat.mul_comm 2 w.mod ▸ h)
    interval_cases k
    · exact .inl rfl
    · exact .inr (Nat.mul_one _)
  · rintro (rfl | rfl)
    · exact Nat.zero_mod _
    · exact trunc_mod w

/-! ### Sign extension (R105, R107) -/

theorem sext_of_lt {iw w : Width} {v : Nat} (h : v < iw.mod) :
    sext iw w v = if half iw ≤ v then v + (w.mod - iw.mod) else v := by
  simp [sext, signbit_of_lt h]

theorem signed_of_lt {w : Width} {v : Nat} (h : v < w.mod) :
    signed w v = if half w ≤ v then (v : Int) - w.mod else v := by
  simp [signed, signbit_of_lt h]

theorem sext_lt {iw w : Width} {v : Nat} (hw : iw.bytes ≤ w.bytes) (h : v < iw.mod) : sext iw w v < w.mod := by
  have hmod := Width.mod_le_mod hw
  rw [sext_of_lt h]
  split <;> omega

/-- Sign extension keeps the signed value: it moves the sign bit and fills the upper bytes (R105). -/
theorem signed_sext {iw w : Width} {v : Nat} (hw : iw.bytes ≤ w.bytes) (h : v < iw.mod) :
    signed w (sext iw w v) = signed iw v := by
  have hmod := Width.mod_le_mod hw
  have hiw := two_mul_half iw
  have hhalf := two_mul_half w
  rw [signed_of_lt (sext_lt hw h), signed_of_lt h, sext_of_lt h]
  by_cases hneg : half iw ≤ v
  · rw [if_pos hneg, if_pos hneg, if_pos (by omega)]
    omega
  · rw [if_neg hneg, if_neg hneg, if_neg (by omega)]

@[simp] theorem sext_self (w : Width) (v : Nat) : sext w w v = v := by
  simp [sext]

/-- A width code is the width in bytes (R71). -/
theorem widthOfCode_bytes {k : Fin 8} {w : Width} (h : widthOfCode k = some w) : w.bytes = k.val := by
  unfold widthOfCode at h
  split at h <;> cases h <;> rfl

/-- No form accepts an immediate wider than its operand (R71). -/
theorem Command.check_of_lt {c : Command} (h : c.w.val < c.iw.val) : c.check = none := by
  cases hc : c.check with
  | none => rfl
  | some f =>
    obtain ⟨w, iw, hw, hiw, hle, -⟩ := Command.check_some hc
    rw [widthOfCode_bytes hw, widthOfCode_bytes hiw] at hle
    omega

theorem invoke_of_check_none {dec : AddrDecoder} {c : Command} {s : State} (h : c.check = none) :
    invoke dec c s = .fault (.invariantViolation c) := by
  rw [invoke, h]

/-! ### The arithmetic function (R110 to R112) -/

theorem addend_of_subtracts {op : ArithOp} (h : op = .sub ∨ op = .cmp) (b : Nat) (w : Width) :
    addend op b w = w.mod - b := by
  obtain rfl | rfl := h <;> rfl

theorem arithTmp_of_subtracts {op : ArithOp} (h : op = .sub ∨ op = .cmp) (a b : Nat) (w : Width) :
    arithTmp op a b w = a + (w.mod - b) := by
  rw [arithTmp, addend_of_subtracts h]

theorem arithTmp_lt {w : Width} {a b : Nat} (ha : a < w.mod) (hb : b < w.mod) (op : ArithOp) :
    arithTmp op a b w < 2 * w.mod := by
  cases op <;> simp only [arithTmp, addend] <;> omega

/-- The flags of an unmasked sum as comparisons with `MOD(w)` and its half. -/
theorem arithFlags_eq_decide (w : Width) (tmp : Nat) (f : Flags) :
    arithFlags w tmp f =
      ⟨decide (half w ≤ trunc w tmp), decide (trunc w tmp = 0), decide (w.mod ≤ tmp), f.cf⟩ := by
  rw [arithFlags_eq, signbit_eq_decide, ← w.max_add_one]
  rfl

/-- OF is the carry, bit `8w` of the unmasked sum (R111). -/
theorem arithFlags_of_eq_bit {w : Width} {tmp : Nat} (h : tmp < 2 * w.mod) (f : Flags) :
    (arithFlags w tmp f).of = (bits tmp (8 * w.bytes) (8 * w.bytes) == 1) := by
  rw [arithFlags_eq_decide, bits, Nat.sub_self]
  exact (topBit_eq_decide h).symm

/-- Adding `MOD(w) - b` subtracts `b` modulo `MOD(w)`. -/
theorem difference_eq_trunc {w : Width} {b : Nat} (a : Nat) (hb : b ≤ w.mod) :
    difference w a b = trunc w (a + (w.mod - b)) := by
  have hsum : (a : Int) - b + w.mod = ((a + (w.mod - b) : Nat) : Int) := by omega
  rw [difference, Int.emod_eq_add_self_emod, hsum]
  rfl

theorem difference_eq_zero_iff {w : Width} {a b : Nat} (ha : a < w.mod) (hb : b < w.mod) :
    difference w a b = 0 ↔ a = b := by
  rw [difference_eq_trunc a hb.le, trunc_eq_zero_iff (by omega)]
  omega

theorem arithFlags_add (w : Width) (a b : Nat) (f : Flags) : arithFlags w (a + b) f = addFlags w a b f :=
  arithFlags_eq_decide w (a + b) f

theorem arithFlags_sub {w : Width} {a b : Nat} (ha : a < w.mod) (hb : b < w.mod) (f : Flags) :
    arithFlags w (a + (w.mod - b)) f = subFlags w a b f := by
  have hcarry : w.mod ≤ a + (w.mod - b) ↔ b ≤ a := by omega
  simp only [arithFlags_eq_decide, ← difference_eq_trunc a hb.le, difference_eq_zero_iff ha hb, hcarry, subFlags]

/-! ### The bitwise function (R114) -/

theorem bitwTmp_lt {w : Width} {a b : Nat} (ha : a < w.mod) (hb : b < w.mod) (op : BitOp) :
    bitwTmp op a b < w.mod := by
  cases op with
  | and => exact Nat.and_lt_two_pow a hb
  | or => exact Nat.or_lt_two_pow ha hb
  | xor => exact Nat.xor_lt_two_pow ha hb
  | test => exact Nat.and_lt_two_pow a hb

theorem bitwFlags_of_lt {w : Width} {r : Nat} (h : r < w.mod) (f : Flags) : bitwFlags w r f = bitFlags w r := by
  rw [bitwFlags_eq, signbit_of_lt h, trunc_of_lt h]
  rfl

/-! ### The unary functions (R115, R116) -/

theorem trunc_unaryTmp_not (w : Width) (a : Nat) : trunc w (unaryTmp .not a w) = w.max - a :=
  trunc_of_lt (Width.le_max_iff.mp (Nat.sub_le w.max a))

/-- The complement within the width flips every bit (R115). -/
theorem max_sub_eq_xor {w : Width} {a : Nat} (h : a < w.mod) : w.max - a = a ^^^ w.max := by
  have hnot := congrArg BitVec.toNat (BitVec.xor_allOnes (x := BitVec.ofNatLT a h))
  rw [BitVec.toNat_xor, BitVec.toNat_not, BitVec.toNat_allOnes] at hnot
  exact hnot.symm

theorem unaryTmp_neg {w : Width} {a : Nat} (h : a < w.mod) : unaryTmp .neg a w = w.mod - a := by
  have hmax := w.max_add_one
  rw [unaryTmp]
  omega

/-- `Neg` is the identity at 0 and the complement to `MOD(w)` elsewhere (R116). -/
theorem trunc_unaryTmp_neg {w : Width} {a : Nat} (h : a < w.mod) :
    trunc w (unaryTmp .neg a w) = if a = 0 then 0 else w.mod - a := by
  rw [unaryTmp_neg h]
  split
  · next hzero => rw [hzero, Nat.sub_zero, trunc_mod]
  · next hne => exact trunc_of_lt (by omega)

theorem neg_neg_within {w : Width} {a : Nat} (h : a < w.mod) :
    trunc w (unaryTmp .neg (trunc w (unaryTmp .neg a w)) w) = a := by
  rw [trunc_unaryTmp_neg (trunc_lt w _), trunc_unaryTmp_neg h]
  by_cases hzero : a = 0
  · simp [hzero]
  · rw [if_neg hzero, if_neg (by omega)]
    omega

/-- Subtraction adds the negation (R117). -/
theorem trunc_sub_eq_add_neg {w : Width} {b : Nat} (a : Nat) (h : b < w.mod) :
    trunc w (arithTmp .sub a b w) = trunc w (arithTmp .add a (trunc w (unaryTmp .neg b w)) w) := by
  rw [unaryTmp_neg h]
  exact (Nat.add_mod_mod _ _ _).symm

end Sys2Proof.Machine

open Sys2Proof Sys2Proof.Machine Sys2Proof.Claims

/-- Settles O17: the flags compare the unmasked sum, which stays below `2 * MOD(w)`, with `MOD(w)` and its half. -/
theorem arithClosedForms : Obligations.ArithClosedForms := by
  unfold Obligations.ArithClosedForms
  intro w a b f ha hb
  have hmax := w.max_add_one
  rw [Width.le_max_iff] at ha hb
  refine ⟨⟨?_, rfl, arithFlags_add w a b f, ?_⟩, fun op hop => ?_, fun op => ?_⟩
  · rw [arithTmp, addend]
    omega
  · rw [arithFlags_eq_decide, decide_eq_true_iff]
    exact trunc_eq_zero_iff (arithTmp_lt ha hb .add)
  · rw [arithTmp_of_subtracts hop, addend_of_subtracts hop, w.two_pow_succ, arithFlags_sub ha hb,
      difference_eq_trunc a hb.le]
    refine ⟨by omega, by omega, by omega, by omega, by omega, rfl, rfl, fun h => ?_, fun h => ?_⟩
    · exact decide_eq_true (by omega)
    · exact decide_eq_true (by omega)
  · have hlt := arithTmp_lt ha hb op
    refine ⟨w.two_pow_succ ▸ hlt, arithFlags_of_eq_bit hlt f, ?_, by rw [arithFlags_eq_decide]⟩
    rw [arithFlags_eq_decide, signbit_of_lt (trunc_lt w _)]

/-- Settles O18: the result of two patterns of the width is one, so that masking keeps it. -/
theorem bitwiseFunction : Obligations.BitwiseFunction := by
  unfold Obligations.BitwiseFunction
  intro w a b f ha hb op r hop
  rw [Width.le_max_iff] at ha hb ⊢
  have hr : bitwTmp op a b = r := by
    simp only [List.mem_cons, Prod.mk.injEq, List.not_mem_nil, or_false] at hop
    obtain ⟨rfl, rfl⟩ | ⟨rfl, rfl⟩ | ⟨rfl, rfl⟩ | ⟨rfl, rfl⟩ := hop <;> rfl
  have hlt := bitwTmp_lt ha hb op
  rw [hr] at hlt ⊢
  exact ⟨rfl, hlt, trunc_of_lt hlt, bitwFlags_of_lt hlt f⟩

/-- Settles O19: NOT is the complement to `MAX(w)` and NEG the one to `MOD(w)`. -/
theorem notAndNegFunctions : Obligations.NotAndNegFunctions := by
  unfold Obligations.NotAndNegFunctions
  intro w a b f ha hb
  have hhalf := two_mul_half w
  have hmod := Width.mod_pos w
  have ha' := Width.le_max_iff.mp ha
  have hb' := Width.le_max_iff.mp hb
  refine ⟨?_, ?_, ?_, ?_, rfl, rfl, ?_, neg_neg_within ha', trunc_sub_eq_add_neg a hb'⟩
  · rw [trunc_unaryTmp_not, max_sub_eq_xor ha']
  · rw [unaryTmp_neg ha', trunc]
  · rw [trunc_unaryTmp_neg hmod, if_pos rfl]
  · rw [trunc_unaryTmp_neg (by omega), if_neg (by omega)]
    omega
  · rw [trunc_unaryTmp_not, trunc_unaryTmp_not, Nat.sub_sub_self ha]

/-- Settles O16: the sign bit picks the case, and an immediate wider than the operand fails the check of S0. -/
theorem signExtensionOfImmediate : Obligations.SignExtensionOfImmediate := by
  unfold Obligations.SignExtensionOfImmediate
  refine ⟨fun iw w v hw hv => ?_, by decide, by decide, by decide, by decide, fun dec c s _ h => ?_⟩
  · rw [Width.le_max_iff] at hv ⊢
    refine ⟨sext_of_lt hv, sext_lt hw hv, signed_sext hw hv, ?_⟩
    rintro rfl
    exact sext_self iw v
  · exact invoke_of_check_none (Command.check_of_lt h)

end

section
/-! SUPPORT. Proofs of the statements of spec/41_handler_protocol.md on one invocation: when a handler aborts, and
where it leaves `ip` (R142 to R145, R150). -/

namespace Sys2Proof.Machine

/-! ### What a handler answers (R142 to R145) -/

/-- Once the extension has been checked, a handler commits or faults (R142). -/
theorem Handler.finish_ne_notMatched (h : Handler) (rm : RM) (r : Reg) (s t : State) :
    h.finish rm r s ≠ .notMatched t := by
  unfold Handler.finish Reply.ofCommit
  split <;> simp

theorem Handler.mismatch_iff {h : Handler} {r : RField} : h.mismatch r = true ↔ ∃ e, h.ext = some e ∧ r.val ≠ e := by
  unfold Handler.mismatch
  cases h.ext <;> simp

/-- Once S2 has answered, a handler aborts exactly where the extension is not the expected one (R140 S3, R145). -/
theorem Handler.run_notMatched_iff {dec : AddrDecoder} {h : Handler} {s t : State} {rm : RM} {r : RField}
    (hd : h.decodeStep dec s = .ok (rm, r, t)) : h.run dec s = .notMatched s ↔ ∃ e, h.ext = some e ∧ r.val ≠ e := by
  rw [Handler.run_of_decodeStep_ok hd, ← Handler.mismatch_iff]
  split
  · next hm => simp [hm]
  · next hm => simp [hm, Handler.finish_ne_notMatched]

/-- Only a handler that expects an extension aborts (R144). -/
theorem Handler.ext_of_run_notMatched {dec : AddrDecoder} {h : Handler} {s : State}
    (hr : h.run dec s = .notMatched s) : ∃ e, h.ext = some e := by
  cases hd : h.decodeStep dec s with
  | error f => simp [Handler.run_of_decodeStep_error hd] at hr
  | ok p =>
    obtain ⟨e, he, -⟩ := (Handler.run_notMatched_iff hd).mp hr
    exact ⟨e, he⟩

/-- The forms that expect an extension are `MOV_RM_IMM`, `ALU_RM_IMM` and `UNARY_RM` (R72, R144). -/
theorem hsel_of_ext {c : Command} {w iw : Width} {h : Handler} {e : Reg} (hc : formOfCommand c w iw = some h)
    (he : h.ext = some e) : c.hsel.val = 1 ∨ c.hsel.val = 7 ∨ c.hsel.val = 10 := by
  unfold formOfCommand at hc
  split at hc
  case h_2 hs | h_8 hs | h_11 hs => simp [hs]
  case h_13 => cases hc
  case h_7 | h_9 | h_10 =>
    obtain ⟨op, -, rfl⟩ := Option.map_eq_some_iff.mp hc
    cases he
  all_goals
    cases hc
    cases he

end Sys2Proof.Machine

open Sys2Proof Sys2Proof.Machine

/-- Settles O20: an abort leaves the very state it was called in. -/
theorem rollbackInvariant : Obligations.RollbackInvariant := by
  unfold Obligations.RollbackInvariant
  intro dec c s t h
  obtain rfl := invoke_notMatched h
  exact ⟨rfl, h, fun _ => rfl⟩

/-- Settles O21: only a handler that expects an extension aborts, and three forms do. -/
theorem onlyThreeFormsAbort : Obligations.OnlyThreeFormsAbort := by
  unfold Obligations.OnlyThreeFormsAbort
  intro dec c s t h
  obtain rfl := invoke_notMatched h
  unfold invoke at h
  split at h
  · cases h
  · next g hg =>
    obtain ⟨w, iw, -, -, -, -, hform⟩ := Command.check_some hg
    obtain ⟨e, he⟩ := Handler.ext_of_run_notMatched h
    exact hsel_of_ext hform he

/-- Settles O22: S3 is the only place where a handler aborts. -/
theorem abortIffExtensionDiffers : Obligations.AbortIffExtensionDiffers := by
  unfold Obligations.AbortIffExtensionDiffers
  refine ⟨fun w => rfl, fun w iw op e h => ?_, fun w => ⟨rfl, rfl⟩, fun dec h s rm r n ha hd => ?_⟩
  · simp only [List.mem_cons, Prod.mk.injEq, List.not_mem_nil, or_false] at h
    obtain ⟨rfl, rfl⟩ | ⟨rfl, rfl⟩ | ⟨rfl, rfl⟩ | ⟨rfl, rfl⟩ | ⟨rfl, rfl⟩ | ⟨rfl, rfl⟩ | ⟨rfl, rfl⟩ := h <;> rfl
  · have hstep : h.decodeStep dec s = .ok (rm, r, s.advance n) := by simp [Handler.decodeStep, ha, hd]
    exact Handler.run_notMatched_iff hstep

/-- Settles O23: S2 and S4 move `ip` past the bytes they consume, and of S5 to S8 only JMP's move it again. -/
theorem commitAdvancesPointer : Obligations.CommitAdvancesPointer := by
  unfold Obligations.CommitAdvancesPointer
  intro dec h s t hr
  obtain ⟨rm, r, s1, imm, s2, hd, -, hf, hc⟩ := Handler.run_matched hr
  obtain ⟨rfl, himm, -⟩ := Handler.fetchStep_ok hf
  refine ⟨fun hj => ?_, ?_⟩
  · have hip := (Handler.commit_keeps hj hc).1
    obtain ⟨ha, rfl, -⟩ | ⟨ha, n, hdec, rfl⟩ := Handler.decodeStep_ok hd
    · exact ⟨fun _ => hip, fun ha' => by simp [ha] at ha'⟩
    · refine ⟨fun ha' => by simp [ha] at ha', fun _ => ⟨rm, r, n, hdec, ?_⟩⟩
      rw [hip, State.advance_advance, State.advance_ip]
  · rintro w rfl
    cases hd
    cases hc
    exact ⟨imm, himm _ rfl, rfl⟩

end

section
/-! SUPPORT. The handler state machine tick by tick (spec/41_handler_protocol.md R146) against the atomic handler: from
each state on, what it answers is what the rest of the skeleton of R140 answers on the values that the latches hold. -/

namespace Sys2Proof.Machine

/-! ### Replies of the state machine (R146, R147) -/

@[simp] theorem State.enterFault_engine (s : State) (f : Fault) :
    (s.enterFault f).engine = { s.engine with phase := .fault f } := rfl

/-- A tick that ends neither in a reply nor in FAULT goes on. -/
theorem drive_of_tick {dec : AddrDecoder} {s t : State} (n : Nat) (ht : tick dec s = (t, none))
    (hp : ∀ f, t.engine.phase ≠ .fault f) : drive dec (n + 1) s = drive dec n t := by
  simp only [drive, ht]

theorem drive_of_tick_fault {dec : AddrDecoder} {s : State} {f : Fault} (n : Nat)
    (ht : tick dec s = (s.enterFault f, none)) : drive dec (n + 1) s = some (.fault f) := by
  simp [drive, ht]

/-- Past S0 a tick is one of the latched handler (R146). -/
theorem tick_of_handler {dec : AddrDecoder} {s : State} {h : Handler} (hh : s.engine.handler = some h)
    (hc : s.engine.phase ≠ .checkCmd) : tick dec s = h.tick dec s := by
  unfold tick
  split
  · next hp _ => exact absurd hp hc
  · next hh' _ => rw [hh] at hh'; cases hh'; rfl
  · next hh' _ => rw [hh] at hh'; cases hh'

/-! ### S5 to S9 from the latches (R146) -/

/-- S5: the state with the operand values latched. -/
def State.latchOperands (s : State) (a b : Nat) : State :=
  s.setEngine { s.engine with a := a, b := b, phase := .execute }

/-- S6: the state with the result latched. -/
def Handler.executed (h : Handler) (s : State) : State :=
  s.setEngine
    { s.engine with
      tmp := h.compute s
      res := h.mask (h.compute s)
      phase := if h.writesDestination then .writeback else h.afterWrite }

/-- S7, which an operation without a destination skips. -/
def Handler.written (h : Handler) (s : State) : Except Fault State :=
  if h.writesDestination then
    (fun t => t.setEngine { s.engine with phase := h.afterWrite }) <$> h.writeback s
  else .ok s

/-- S8, which an operation that writes no flags skips, and the return to IDLE of S9. -/
def Handler.flagged (h : Handler) (s : State) : State :=
  (if h.writesFlags then s.setFlags (h.newFlags s) else s).setEngine Engine.idle

/-- S6 to S9 of the latched handler. -/
def Handler.commitOperands (h : Handler) (s : State) : Except Fault State :=
  h.flagged <$> h.written (h.executed s)

/-- S5 to S9 of the latched handler. -/
def Handler.commitLatched (h : Handler) (s : State) : Except Fault State := do
  let (a, b) ← h.operands s
  h.commitOperands (s.latchOperands a b)

/-! ### The latched commit is the atomic one (R148) -/

theorem State.writeRM_setEngine (s : State) (e : Engine) (rm : RM) (v : Nat) :
    (s.setEngine e).writeRM rm v = (fun t => t.setEngine e) <$> s.writeRM rm v := by
  cases rm with
  | reg i w => rfl
  | mem addr w =>
    simp only [State.writeRM, State.memWrite, State.memAdmit_setEngine, apply_ite (Functor.map _)]
    rfl

/-- A storage write keeps the flags, so that S8 may read them after it as before it (R141). -/
theorem State.writeRM_bind_setFlags (s : State) (rm : RM) (v : Nat) (g : Flags → Flags) :
    (s.writeRM rm v >>= fun t => .ok (t.setFlags (g s.flags))) =
      (fun t => t.setFlags (g t.flags)) <$> s.writeRM rm v := by
  cases hw : s.writeRM rm v with
  | error f => rfl
  | ok t =>
    obtain ⟨-, hflags, -⟩ := State.writeRM_fields hw
    rw [← hflags]
    rfl

/-- An operation whose destination is an operand descriptor: one write, then the flags. -/
theorem Handler.commitOperands_of_writeRM {h : Handler} (dest : Engine → RM) (s : State) (e : Engine)
    (hd : h.writesDestination = true) (hw : ∀ t, h.writeback t = t.writeRM (dest t.engine) t.engine.res) :
    h.commitOperands (s.setEngine e) =
      (fun t => h.flagged (t.setEngine { (h.executed (s.setEngine e)).engine with phase := h.afterWrite })) <$>
        s.writeRM (dest (h.executed (s.setEngine e)).engine) (h.mask (h.compute (s.setEngine e))) := by
  simp only [Handler.commitOperands, Handler.written, hd, hw, if_true, Handler.executed, State.setEngine_setEngine,
    State.setEngine_engine, State.writeRM_setEngine, Functor.map_map]

theorem aluRmR_commitOperands (op : AluOp) (s : State) (e : Engine) (a b : Nat) :
    (Handler.aluRmR op e.rm.width).commitOperands ((s.setEngine e).latchOperands a b) =
      (fun t => t.setEngine Engine.idle) <$> aluCommitRM op e.rm a b s := by
  unfold aluCommitRM
  cases hb : op.writesBack with
  | true =>
    refine (Handler.commitOperands_of_writeRM (h := .aluRmR op e.rm.width) Engine.rm s _ hb fun _ => rfl).trans ?_
    simp only [if_true, State.writeRM_bind_setFlags, Functor.map_map]
    rfl
  | false =>
    simp only [Handler.commitOperands, Handler.written, Handler.writesDestination, hb]
    rfl

theorem unaryRm_commitOperands (op : UnOp) (s : State) (e : Engine) (a b : Nat) :
    (Handler.unaryRm op e.rm.width).commitOperands ((s.setEngine e).latchOperands a b) =
      (fun t => t.setEngine Engine.idle) <$> (s.writeRM e.rm (trunc e.rm.width (unaryTmp op a e.rm.width)) >>=
        fun t => .ok (t.setFlags (unaryFlags op a s.flags))) := by
  refine (Handler.commitOperands_of_writeRM Engine.rm s _ rfl fun _ => rfl).trans ?_
  rw [State.writeRM_bind_setFlags, Functor.map_map]
  cases op <;> rfl

/-- A form that reads one operand `v` in S5 and latches the pair `p v`. -/
theorem Handler.commitLatched_of_read {h : Handler} {s : State} {e : Engine} (read : Except Fault Nat)
    {p : Nat → Nat × Nat} {k : Nat → Except Fault State}
    (hread : h.operands (s.setEngine e) = read >>= fun v => .ok (p v))
    (hcommit : h.commit e.rm e.r.val e.imm s = read >>= k)
    (hk : ∀ v, h.commitOperands ((s.setEngine e).latchOperands (p v).1 (p v).2) =
      (fun t => t.setEngine Engine.idle) <$> k v) :
    h.commitLatched (s.setEngine e) = (fun t => t.setEngine Engine.idle) <$> h.commit e.rm e.r.val e.imm s := by
  rw [hcommit, map_bind, Handler.commitLatched, hread]
  cases read with
  | error f => rfl
  | ok v => exact hk v

/-- The latches carry what the atomic commit is given, so that it writes the same (R148). -/
theorem Handler.commitLatched_setEngine {h : Handler} {e : Engine} (s : State)
    (hw : h.addressed = true → e.rm.width = h.width) :
    h.commitLatched (s.setEngine e) = (fun t => t.setEngine Engine.idle) <$> h.commit e.rm e.r.val e.imm s := by
  cases h with
  | movRImm w r3 => rfl
  | movRmImm w => exact Handler.commitOperands_of_writeRM Engine.rm s _ rfl fun _ => rfl
  | movRmR w =>
    obtain rfl : e.rm.width = w := hw rfl
    exact Handler.commitOperands_of_writeRM Engine.rm s _ rfl fun _ => rfl
  | movRRm w =>
    obtain rfl : e.rm.width = w := hw rfl
    exact Handler.commitLatched_of_read (s.readRM e.rm) rfl rfl fun _ => rfl
  | movAccMoffs w =>
    exact Handler.commitLatched_of_read (s.memRead (BitVec.ofNat 32 e.imm) w.bytes) rfl rfl fun _ => rfl
  | movMoffsAcc w =>
    exact Handler.commitOperands_of_writeRM (fun e => .mem (BitVec.ofNat 32 e.imm) w) s _ rfl fun _ => rfl
  | aluAccImm op w iw => rcases op with ⟨⟨⟩⟩ | ⟨⟨⟩⟩ <;> rfl
  | aluRmImm op w iw =>
    obtain rfl : e.rm.width = w := hw rfl
    exact Handler.commitLatched_of_read (s.readRM e.rm) rfl rfl fun _ => aluRmR_commitOperands op s e _ _
  | aluRmR op w =>
    obtain rfl : e.rm.width = w := hw rfl
    exact Handler.commitLatched_of_read (s.readRM e.rm) rfl rfl fun _ => aluRmR_commitOperands op s e _ _
  | aluRRm op w =>
    obtain rfl : e.rm.width = w := hw rfl
    refine Handler.commitLatched_of_read (s.readRM e.rm) rfl rfl fun _ => ?_
    rcases op with ⟨⟨⟩⟩ | ⟨⟨⟩⟩ <;> rfl
  | unaryRm op w =>
    obtain rfl : e.rm.width = w := hw rfl
    exact Handler.commitLatched_of_read (s.readRM e.rm) rfl rfl fun _ => unaryRm_commitOperands op s e _ _
  | jmpRel w =>
    have hback : BitVec.ofNat 32 (jumpTarget w s.ip e.imm).toNat = jumpTarget w s.ip e.imm := by simp
    exact congrArg (fun p => Except.ok ((s.setIp p).setEngine Engine.idle)) hback

/-! ### The state machine from each state to its reply (R146, R147) -/

/-- S2: the latches with the descriptors, the extension yet to be checked where the form checks one. -/
def Handler.latchDecoded (h : Handler) (rm : RM) (r : RField) (e : Engine) : Engine :=
  { e with rm := rm, r := r, phase := if h.ext.isSome then .checkExt else h.afterDecode }

theorem Handler.afterDecode_ne_fault (h : Handler) (f : Fault) : h.afterDecode ≠ .fault f := by
  unfold Handler.afterDecode
  split <;> simp

theorem Handler.afterWrite_ne_fault (h : Handler) (f : Fault) : h.afterWrite ≠ .fault f := by
  unfold Handler.afterWrite
  split <;> simp

theorem Handler.finish_eq (h : Handler) (rm : RM) (r : Reg) (s : State) :
    h.finish rm r s = .ofCommit (h.fetchStep s >>= fun p => h.commit rm r p.1 p.2) := rfl

/-- A form without addressing bytes reads no descriptor. -/
theorem Handler.finish_of_not_addressed {h : Handler} (ha : h.addressed = false) (rm rm' : RM) (r r' : Reg)
    (s : State) : h.finish rm r s = h.finish rm' r' s := by
  cases h with
  | movRmImm w | movRmR w | movRRm w | aluRmImm op w iw | aluRmR op w | aluRRm op w | unaryRm op w => cases ha
  | _ => rfl

theorem State.setEngine_idle {s : State} (hs : s.engine = Engine.idle) : s.setEngine Engine.idle = s := by
  rw [← hs, State.setEngine_self]

theorem Handler.commit_setEngine_idle {s : State} (hs : s.engine = Engine.idle) (h : Handler) (rm : RM) (r : Reg)
    (imm : Nat) : (fun t => t.setEngine Engine.idle) <$> h.commit rm r imm s = h.commit rm r imm s := by
  cases hc : h.commit rm r imm s with
  | error f => rfl
  | ok t =>
    obtain ⟨⟨-, -, he⟩, -⟩ := Handler.commit_keeps_inv hc
    exact congrArg Except.ok (State.setEngine_idle (he.trans hs))

/-! With the handler latched, the fuel left is what the longest way from the state to its reply takes. -/

section
variable {dec : AddrDecoder} {h : Handler} {s t : State} (n : Nat) (hh : s.engine.handler = some h)
include hh

theorem drive_of_handler_tick (hc : s.engine.phase ≠ .checkCmd) (ht : h.tick dec s = (t, none))
    (hf : ∀ f, t.engine.phase ≠ .fault f) : drive dec (n + 1) s = drive dec n t :=
  drive_of_tick n ((tick_of_handler hh hc).trans ht) hf

theorem drive_of_handler_fault {f : Fault} (hc : s.engine.phase ≠ .checkCmd)
    (ht : h.tick dec s = (s.enterFault f, none)) : drive dec (n + 1) s = some (.fault f) :=
  drive_of_tick_fault n ((tick_of_handler hh hc).trans ht)

theorem drive_commit (hp : s.engine.phase = .commit) :
    drive dec (n + 1) s = some (.matched (s.setEngine Engine.idle)) := by
  simp [drive, tick_of_handler hh, Handler.tick, hp]

theorem drive_rollback (hp : s.engine.phase = .rollback) :
    drive dec (n + 1) s = some (.notMatched ((s.setIp s.engine.ip0).setEngine Engine.idle)) := by
  simp [drive, tick_of_handler hh, Handler.tick, hp]

theorem drive_afterWrite (hp : s.engine.phase = h.afterWrite) :
    drive dec (n + 2) s = some (.matched (h.flagged s)) := by
  unfold Handler.afterWrite at hp
  unfold Handler.flagged
  cases hf : h.writesFlags with
  | false =>
    rw [hf] at hp
    exact drive_commit (n + 1) hh hp
  | true =>
    rw [hf] at hp
    rw [drive_of_handler_tick (n + 1) hh (by simp [hp]) (by simp only [Handler.tick, hp]; rfl) (by simp)]
    exact drive_commit n hh rfl

theorem drive_execute (hp : s.engine.phase = .execute) :
    drive dec (n + 4) s = some (.ofCommit (h.commitOperands s)) := by
  have ht : h.tick dec s = (h.executed s, none) := by simp only [Handler.tick, hp, Handler.executed]
  have hh' : (h.executed s).engine.handler = some h := hh
  unfold Handler.commitOperands Handler.written
  cases hd : h.writesDestination with
  | false =>
    have hp' : (h.executed s).engine.phase = h.afterWrite := by simp [Handler.executed, hd]
    rw [drive_of_handler_tick _ hh (by simp [hp]) ht (by simp [hp', h.afterWrite_ne_fault])]
    exact drive_afterWrite (n + 1) hh' hp'
  | true =>
    have hp' : (h.executed s).engine.phase = .writeback := by simp [Handler.executed, hd]
    rw [drive_of_handler_tick _ hh (by simp [hp]) ht (by simp [hp'])]
    cases hw : h.writeback (h.executed s) with
    | error f => exact drive_of_handler_fault _ hh' (by simp [hp']) (by simp only [Handler.tick, hp', hw])
    | ok t =>
      rw [drive_of_handler_tick _ hh' (by simp [hp']) (by simp only [Handler.tick, hp', hw]; rfl)
        (by simp [h.afterWrite_ne_fault])]
      exact drive_afterWrite n hh' rfl

theorem drive_readOps (hp : s.engine.phase = .readOps) :
    drive dec (n + 5) s = some (.ofCommit (h.commitLatched s)) := by
  unfold Handler.commitLatched
  cases ho : h.operands s with
  | error f => exact drive_of_handler_fault _ hh (by simp [hp]) (by simp only [Handler.tick, hp, ho])
  | ok p =>
    rw [drive_of_handler_tick (t := s.latchOperands p.1 p.2) _ hh (by simp [hp])
      (by simp only [Handler.tick, hp, ho, State.latchOperands]) (by simp [State.latchOperands])]
    exact drive_execute n hh rfl

end

section
variable {dec : AddrDecoder} {h : Handler} {s : State} {e : Engine} (n : Nat) (hs : s.engine = Engine.idle)
  (hh : e.handler = some h)
include hs hh

/-- From S5 on, the machine commits as the atomic handler does. -/
theorem drive_commitLatched (hw : h.addressed = true → e.rm.width = h.width) (hp : e.phase = .readOps) :
    drive dec (n + 5) (s.setEngine e) = some (.ofCommit (h.commit e.rm e.r.val e.imm s)) := by
  rw [drive_readOps n hh hp, Handler.commitLatched_setEngine s hw, Handler.commit_setEngine_idle hs]

/-- From S4 or S5 on, the machine finishes as the atomic handler does. -/
theorem drive_afterDecode (hw : h.addressed = true → e.rm.width = h.width) (hp : e.phase = h.afterDecode)
    (himm : e.imm = 0) : drive dec (n + 6) (s.setEngine e) = some (h.finish e.rm e.r.val s) := by
  unfold Handler.afterDecode at hp
  rw [Handler.finish_eq, Handler.fetchStep]
  cases hi : h.immBytes with
  | none =>
    rw [hi] at hp
    rw [drive_commitLatched (n + 1) hs hh hw hp, himm]
    rfl
  | some k =>
    replace hp : e.phase = .fetchImm := by simpa [hi] using hp
    cases hv : s.memRead s.ip k with
    | error f =>
      have ht : h.tick dec (s.setEngine e) = ((s.setEngine e).enterFault f, none) := by
        simp [Handler.tick, hp, hi, State.fetchImm, hv, bind, Except.bind]
      simp only [State.fetchImm, hv]
      exact drive_of_handler_fault _ hh (by simp [hp]) ht
    | ok v =>
      have ht : h.tick dec (s.setEngine e) =
          ((s.advance k).setEngine { e with imm := v, phase := .readOps }, none) := by
        simp [Handler.tick, hp, hi, State.fetchImm, hv]
        rfl
      simp only [State.fetchImm, hv]
      rw [drive_of_handler_tick _ hh (by simp [hp]) ht (by simp)]
      exact drive_commitLatched (s := s.advance k) n hs hh hw rfl

/-- From S3 on, the machine checks the extension as the atomic handler does. -/
theorem drive_decoded (hw : h.addressed = true → e.rm.width = h.width)
    (hp : e.phase = if h.ext.isSome then .checkExt else h.afterDecode) (himm : e.imm = 0) :
    drive dec (n + 7) (s.setEngine e) =
      some (if h.mismatch e.r then .notMatched (s.setIp e.ip0) else h.finish e.rm e.r.val s) := by
  cases hx : h.ext with
  | none =>
    rw [hx] at hp
    have hm : h.mismatch e.r = false := by simp [Handler.mismatch, hx]
    rw [hm]
    exact drive_afterDecode (n + 1) hs hh hw hp himm
  | some x =>
    replace hp : e.phase = .checkExt := by simpa [hx] using hp
    have ht : h.tick dec (s.setEngine e) =
        (s.setEngine { e with phase := if x = e.r.val then h.afterDecode else .rollback }, none) := by
      simp [Handler.tick, hp, hx]
    by_cases hr : x = e.r.val
    · have hm : h.mismatch e.r = false := by simp [Handler.mismatch, hx, hr]
      rw [if_pos hr] at ht
      rw [hm, drive_of_handler_tick _ hh (by simp [hp]) ht (by simp [h.afterDecode_ne_fault])]
      exact drive_afterDecode (e := { e with phase := h.afterDecode }) n hs hh hw rfl himm
    · have hm : h.mismatch e.r = true := by simp [Handler.mismatch, hx, Ne.symm hr]
      rw [if_neg hr] at ht
      rw [hm, drive_of_handler_tick _ hh (by simp [hp]) ht (by simp), drive_rollback _ hh rfl]
      exact congrArg (some ∘ Reply.notMatched) (State.setEngine_idle (s := s.setIp e.ip0) hs)

/-- From S2 on, the machine answers as the atomic handler does: the decoder reads nothing of the engine (R131). -/
theorem drive_decode (hd : dec.Described) (hrep : dec.Repeatable) (ha : h.addressed = true) (hp : e.phase = .decode)
    (himm : e.imm = 0) (hip : e.ip0 = s.ip) : drive dec (n + 8) (s.setEngine e) = some (h.run dec s) := by
  have hsame : dec h.width h.width (s.setEngine e) = dec h.width h.width s := hrep _ _ _ _ rfl rfl rfl rfl
  cases hdec : dec h.width h.width s with
  | error f =>
    have hstep : h.decodeStep dec s = .error f := by simp [Handler.decodeStep, ha, hdec, bind, Except.bind]
    rw [Handler.run_of_decodeStep_error hstep]
    exact drive_of_handler_fault _ hh (by simp [hp]) (by simp [Handler.tick, hp, hsame, hdec])
  | ok p =>
    obtain ⟨rm, r, k⟩ := p
    obtain ⟨hw, -, -⟩ := hd _ _ _ _ _ _ hdec
    have hstep : h.decodeStep dec s = .ok (rm, r, s.advance k) := by simp [Handler.decodeStep, ha, hdec]
    have ht : h.tick dec (s.setEngine e) = ((s.advance k).setEngine (h.latchDecoded rm r e), none) := by
      simp only [Handler.tick, State.setEngine_engine, hp, hsame, hdec]
      rfl
    have hf (f : Fault) : (h.latchDecoded rm r e).phase ≠ .fault f := by
      unfold Handler.latchDecoded
      split <;> simp [h.afterDecode_ne_fault]
    rw [Handler.run_of_decodeStep_ok hstep, drive_of_handler_tick _ hh (by simp [hp]) ht hf,
      drive_decoded (s := s.advance k) (e := h.latchDecoded rm r e) n hs hh (fun _ => hw) rfl himm]
    exact congrArg (fun p => some (if h.mismatch r then .notMatched (s.setIp p) else h.finish rm r.val (s.advance k)))
      hip

/-- From S1 on, the machine answers as the atomic handler does. -/
theorem drive_capture (hd : dec.Described) (hrep : dec.Repeatable) (hp : e.phase = .capture) (himm : e.imm = 0) :
    drive dec (n + 9) (s.setEngine e) = some (h.run dec s) := by
  have ht : h.tick dec (s.setEngine e) =
      (s.setEngine { e with ip0 := s.ip, phase := if h.addressed then .decode else h.afterDecode }, none) := by
    simp [Handler.tick, hp]
  cases ha : h.addressed with
  | false =>
    rw [ha] at ht
    have hrun := run_of_not_addressed ha dec s 0
    rw [State.advance_zero] at hrun
    rw [drive_of_handler_tick _ hh (by simp [hp]) ht (by simp [h.afterDecode_ne_fault]), hrun,
      Handler.finish_of_not_addressed ha _ e.rm _ e.r.val]
    exact drive_afterDecode (n + 2) hs hh (by simp [ha]) rfl himm
  | true =>
    rw [ha] at ht
    rw [drive_of_handler_tick _ hh (by simp [hp]) ht (by simp)]
    exact drive_decode n hs hh hd hrep ha rfl himm rfl

end

end Sys2Proof.Machine

open Sys2Proof Sys2Proof.Machine

/-- Settles O26: from S1 on the machine's latches carry what the atomic handler passes from step to step. -/
theorem sequencerRefinesHandler : Obligations.SequencerRefinesHandler := by
  unfold Obligations.SequencerRefinesHandler
  intro dec hd hrep c s hs
  refine ⟨s.setEngine { Engine.idle with phase := .checkCmd, cmd := some c }, ?_, ?_⟩
  · simp [State.accept, hs, Engine.idle]
  · unfold invoke
    cases hc : c.check with
    | none => exact drive_of_tick_fault 9 (by simp [tick, hc])
    | some h =>
      rw [drive_of_tick 9 (by simp only [tick, State.setEngine_engine, hc]; rfl) (by simp)]
      exact drive_capture (h := h) 0 hs rfl hd hrep rfl rfl

end

section
/-! SUPPORT. Proofs of the statements of spec/42_data_movement.md. Every instruction meets its operand in the commit of its
handler form, so that where the 78 rows stop is read off the twelve forms; a MOV is one write of a register or of an
operand. -/

namespace Sys2Proof

theorem VImm.toNat_lt (imm : VImm) : imm.toNat < imm.size.width.mod := by
  cases imm <;> exact BitVec.isLt _

/-- The bytes of a well-formed instruction decode to it. -/
theorem decode_of_encode {i : Instr} {bs : List Byte} (hwf : i.wf = true) (h : encode i = bs) :
    decode bs = .ok (i, bs.length) := by
  have hd := decodeEncodeRoundTrip i [] hwf
  rwa [List.append_nil, h] at hd

end Sys2Proof

namespace Sys2Proof.Machine

/-! ### The operand access of a handler form (R55, R141) -/

/-- The operand that a form accesses besides its registers: the one of the addressing bytes or of the direct offset. -/
def Handler.operand (h : Handler) (rm : RM) (imm : Nat) : Option RM :=
  match h with
  | .movRImm _ _ | .aluAccImm _ _ _ | .jmpRel _ => none
  | .movAccMoffs w | .movMoffsAcc w => some (.mem (BitVec.ofNat 32 imm) w)
  | .movRmImm _ | .movRmR _ | .movRRm _ | .aluRmImm _ _ _ | .aluRmR _ _ | .aluRRm _ _ | .unaryRm _ _ => some rm

/-- The kind of the form's first access to its operand: a form that does not use the old value only writes it (R267). -/
def Handler.operandAccess : Handler → AccessKind
  | .movRmImm _ | .movRmR _ | .movMoffsAcc _ => .write
  | _ => .read

/-- The operand of the run, on a state whose `ip` is past the instruction. -/
def HandlerRun.operand (c : HandlerRun) (s : State) : Option RM :=
  c.handler.operand (resolve c.am c.handler.width s) c.imm

theorem operandOf_eq (i : Instr) (s : State) : operandOf i s = (handlerRun i).operand s := by
  cases i with
  | movAccMoffs8 _ addr | movAccMoffsv _ addr | movMoffsAcc8 _ addr | movMoffsAccv _ addr =>
    simp [operandOf, handlerRun, HandlerRun.operand, Handler.operand]
  | _ => rfl

theorem operandAccess_eq (i : Instr) : operandAccess i = (handlerRun i).handler.operandAccess := by
  cases i <;> rfl

theorem operandAdmitted_iff {i : Instr} {s : State} :
    operandAdmitted i s = true ↔ ∀ o, operandOf i s = some o → s.admits o = true := by
  unfold operandAdmitted
  cases operandOf i s <;> simp

/-- Only a memory operand can be refused. -/
theorem operandAdmitted_eq_false {i : Instr} {s : State} (h : operandAdmitted i s = false) :
    ∃ addr w, operandOf i s = some (.mem addr w) ∧ s.memAdmit addr w.bytes = false := by
  unfold operandAdmitted at h
  split at h
  · next rm ho =>
    cases rm with
    | reg r w => cases h
    | mem addr w => exact ⟨addr, w, ho, h⟩
  · cases h

theorem bind_of_error {ε α β : Type} {x : Except ε α} {e : ε} (h : x = .error e) (f : α → Except ε β) :
    (x >>= f) = .error e := by
  rw [h]
  rfl

theorem formMovRRm_eq {rm : RM} {r : Reg} {v : Nat} {s : State} (h : s.readRM rm = .ok v) :
    formMovRRm r rm s = .ok (s.regWrite r rm.width v) := by
  simp [formMovRRm, h]

/-- A form commits where its operand is admitted: the read of S5 and the write of S7 are the same access but for the
kind (R56). -/
theorem Handler.commit_admitted {h : Handler} {rm : RM} {imm : Nat} {s : State} (r : Reg)
    (ha : ∀ o, h.operand rm imm = some o → s.admits o = true) : ∃ t, h.commit rm r imm s = .ok t := by
  cases h with
  | movRImm w r3 | aluAccImm op w iw | jmpRel w => exact ⟨_, rfl⟩
  | movRmImm w | movRmR w => exact State.writeRM_admitted _ (ha rm rfl)
  | movMoffsAcc w => exact State.writeRM_admitted (rm := .mem _ w) _ (ha _ rfl)
  | movRRm w =>
    obtain ⟨v, hv⟩ := State.readRM_admitted (ha rm rfl)
    exact ⟨_, formMovRRm_eq hv⟩
  | movAccMoffs w =>
    obtain ⟨v, hv⟩ := State.readRM_admitted (ha _ rfl)
    exact ⟨_, formMovRRm_eq hv⟩
  | aluRmImm op w iw =>
    obtain ⟨a, hread⟩ := State.readRM_admitted (ha rm rfl)
    obtain ⟨t, ht⟩ := aluCommitRM_admitted op a (sext iw rm.width imm) (ha rm rfl)
    exact ⟨t, (formAluRmImm_eq hread).trans ht⟩
  | aluRmR op w =>
    obtain ⟨a, hread⟩ := State.readRM_admitted (ha rm rfl)
    obtain ⟨t, ht⟩ := aluCommitRM_admitted op a (s.regRead r rm.width) (ha rm rfl)
    exact ⟨t, (formAluRmR_eq hread).trans ht⟩
  | aluRRm op w =>
    obtain ⟨b, hb⟩ := State.readRM_admitted (ha rm rfl)
    exact ⟨_, formAluRRm_eq hb⟩
  | unaryRm op w =>
    obtain ⟨a, hread⟩ := State.readRM_admitted (ha rm rfl)
    obtain ⟨t, ht, -⟩ := formUnaryRm_spec (op := op) hread
    exact ⟨t, ht⟩

/-- A form whose memory operand is refused stops at its first access to it (R264, R267). -/
theorem Handler.commit_refused {h : Handler} {rm : RM} {imm : Nat} {s : State} {addr : Word} {w : Width} (r : Reg)
    (ho : h.operand rm imm = some (.mem addr w)) (ha : s.memAdmit addr w.bytes = false) :
    h.commit rm r imm s = .error (.memoryFault addr w.bytes h.operandAccess) := by
  cases h with
  | movRImm _ _ | aluAccImm _ _ _ | jmpRel _ => cases ho
  | movRmImm _ | movRmR _ | movMoffsAcc _ => cases ho; exact State.memWrite_refused _ ha
  | movRRm _ | movAccMoffs _ | aluRmImm _ _ _ | aluRmR _ _ | aluRRm _ _ | unaryRm _ _ =>
    cases ho
    exact bind_of_error (State.memRead_refused ha) _

/-! ### MOV as one write (R160) -/

/-- A MOV into a register. -/
theorem stores_of_regWrite {i : Instr} {s : State} {r : Reg} {w : Width} {v : Nat}
    (hexec : exec i s = .next (s.regWrite r w v)) (hv : v < w.mod) : Stores i s (.reg r w) v s.flags := by
  obtain ⟨hflags, ⟨hip, hlaunch, -⟩, hwrote⟩ := s.regWrite_spec r w hv
  exact ⟨_, hexec, hwrote, hflags, hip, hlaunch⟩

/-- A MOV into a register from an operand that can be read. -/
theorem stores_of_formMovRRm {i : Instr} {s : State} {r : Reg} {rm : RM} {w : Width} {v : Nat}
    (hexec : exec i s = outcome (formMovRRm r rm s)) (hw : rm.width = w) (hread : s.readRM rm = .ok v) :
    Stores i s (.reg r w) v s.flags := by
  subst hw
  rw [formMovRRm_eq hread] at hexec
  exact stores_of_regWrite hexec (State.readRM_ok hread).2

/-- A MOV into an operand that is admitted. -/
theorem stores_of_writeRM {i : Instr} {s : State} {rm : RM} {v : Nat} (hexec : exec i s = outcome (s.writeRM rm v))
    (hinv : s.Inv) (ha : s.admits rm = true) (hv : v < rm.width.mod) : Stores i s rm v s.flags := by
  obtain ⟨t, ht, hflags, ⟨hip, hlaunch, -⟩, hwrote⟩ := State.writeRM_spec ha hv
  rw [ht] at hexec
  exact ⟨t, hexec, hwrote hinv.1, hflags, hip, hlaunch⟩

/-- A MOV into an operand that is admitted, from a register. -/
theorem stores_of_formMovRmR {i : Instr} {s : State} {rm : RM} {r : Reg} {w : Width}
    (hexec : exec i s = outcome (formMovRmR rm r s)) (hw : rm.width = w) (hinv : s.Inv) (ha : s.admits rm = true) :
    Stores i s rm (s.regRead r w) s.flags := by
  subst hw
  exact stores_of_writeRM hexec hinv ha (s.regRead_lt r _)

end Sys2Proof.Machine

open Sys2Proof Sys2Proof.Machine

/-- Settles O32: an instruction stops where its handler form does, at the first access to the operand. -/
theorem execCompletesIffOperandAdmitted : Obligations.ExecCompletesIffOperandAdmitted := by
  unfold Obligations.ExecCompletesIffOperandAdmitted
  intro i s
  refine ⟨fun h => ?_, fun h => ?_⟩
  · rw [operandAdmitted_iff, operandOf_eq] at h
    obtain ⟨t, ht⟩ := Handler.commit_admitted (handlerRun i).reg h
    exact ⟨t, exec_next_iff.mpr ht⟩
  · obtain ⟨addr, w, ho, ha⟩ := operandAdmitted_eq_false h
    refine ⟨addr, w, ho, ?_⟩
    rw [operandOf_eq] at ho
    rw [exec_fault_iff, operandAccess_eq]
    exact Handler.commit_refused _ ho ha

/-- Settles O53: one register write of a value that fits the width. -/
theorem movRegImm : Obligations.MovRegImm := by
  unfold Obligations.MovRegImm
  intro p66 r imm8 imm s
  exact ⟨stores_of_regWrite rfl imm8.isLt, stores_of_regWrite rfl imm.toNat_lt⟩

/-- Settles O54: one operand write of a value that fits the width. -/
theorem movRmImm : Obligations.MovRmImm := by
  unfold Obligations.MovRmImm
  intro p66 am imm8 imm s hinv
  refine ⟨fun ha => stores_of_writeRM rfl hinv ha ?_, fun ha => stores_of_writeRM rfl hinv ha ?_⟩
  · rw [resolve_width]
    exact imm8.isLt
  · rw [resolve_width]
    exact imm.toNat_lt

/-- Settles O55: one operand write of the register's view. -/
theorem movRmReg : Obligations.MovRmReg := by
  unfold Obligations.MovRmReg
  intro p66 v am r s hinv
  exact ⟨stores_of_formMovRmR rfl (resolve_width ..) hinv, stores_of_formMovRmR rfl (resolve_width ..) hinv⟩

/-- Settles O56: one register write of the value read. -/
theorem movRegRm : Obligations.MovRegRm := by
  unfold Obligations.MovRegRm
  intro p66 v am r s b
  exact ⟨stores_of_formMovRRm rfl (resolve_width ..), stores_of_formMovRRm rfl (resolve_width ..)⟩

/-- Settles O57: the direct offset is a memory operand, moved into register 0. -/
theorem movAccMoffs : Obligations.MovAccMoffs := by
  unfold Obligations.MovAccMoffs
  intro p66 v addr s b
  exact ⟨stores_of_formMovRRm (rm := .mem addr .w1) rfl rfl, stores_of_formMovRRm (rm := .mem addr v.width) rfl rfl⟩

/-- Settles O58: the direct offset is a memory operand, moved into from register 0. -/
theorem movMoffsAcc : Obligations.MovMoffsAcc := by
  unfold Obligations.MovMoffsAcc
  intro p66 v addr s hinv
  exact ⟨stores_of_formMovRmR (rm := .mem addr .w1) rfl rfl hinv,
    stores_of_formMovRmR (rm := .mem addr v.width) rfl rfl hinv⟩

/-- Settles O3: each word is its instruction's encoding; the two reserved ones are run through the decoder. -/
theorem sampleWordsDecode : Obligations.SampleWordsDecode := by
  unfold Obligations.SampleWordsDecode
  refine ⟨decode_of_encode rfl rfl, decode_of_encode rfl rfl, decode_of_encode rfl rfl, decode_of_encode rfl rfl,
    decode_of_encode rfl rfl, decode_of_encode rfl rfl, decode_of_encode rfl rfl, decode_of_encode rfl rfl,
    decode_of_encode rfl rfl, ?_, ?_⟩
  · decide
  · decide

end

section
/-! SUPPORT. Proofs of the statements of spec/43_arithmetic.md. A two-operand instruction is the commit of one operation
to a register or to an operand, so that ADD, SUB and CMP differ only in the closed form of their operation (R112) and in
whether the result is written back (R90). -/

namespace Sys2Proof.Machine

open Claims

/-! ### Immediates (R105) -/

/-- The machine's sign extension is that of bit vectors. -/
theorem sext_eq_extended (w : Width) (imm : BitVec 8) : sext .w1 w imm.toNat = extended w imm := by
  have hlt : imm.toNat < 2 ^ (8 * w.bytes) := imm.isLt.trans_le (Width.mod_le_mod (iw := .w1) (by cases w <;> decide))
  have hmsb : imm.msb = decide (half .w1 ≤ imm.toNat) := BitVec.msb_eq_decide imm
  rw [sext_of_lt imm.isLt, extended, BitVec.toNat_signExtend, BitVec.toNat_setWidth, Nat.mod_eq_of_lt hlt, hmsb]
  by_cases hneg : half .w1 ≤ imm.toNat
  · rw [if_pos hneg, if_pos (decide_eq_true hneg)]
    rfl
  · rw [if_neg hneg, if_neg (by simpa using hneg), Nat.add_zero]

theorem extended_lt (w : Width) (imm : BitVec 8) : extended w imm < w.mod := BitVec.isLt _

/-! ### Closed forms of an operation (R111, R112) -/

/-- On patterns of the width, the masked result of the operation is `res` and the flags it leaves are `fl`. -/
def AluOp.HasClosedForm (op : AluOp) (res : Width → Nat → Nat → Nat) (fl : Width → Nat → Nat → Flags → Flags) : Prop :=
  ∀ (w : Width) (a b : Nat) (f : Flags), a < w.mod → b < w.mod →
    trunc w (aluTmp op a b w) = res w a b ∧ aluFlags op w (aluTmp op a b w) f = fl w a b f

theorem add_hasClosedForm : (AluOp.arith .add).HasClosedForm (fun w a b => (a + b) % w.mod) addFlags :=
  fun w a b f _ _ => ⟨rfl, arithFlags_add w a b f⟩

theorem sub_hasClosedForm : (AluOp.arith .sub).HasClosedForm difference subFlags :=
  fun _ a _ f ha hb => ⟨(difference_eq_trunc a hb.le).symm, arithFlags_sub ha hb f⟩

/-- CMP computes as SUB does (R110). -/
theorem cmp_hasClosedForm : (AluOp.arith .cmp).HasClosedForm difference subFlags := sub_hasClosedForm

/-! ### What a two-operand instruction does (R90) -/

/-- The instruction stores the result `v` in the operand where the operation writes back, and leaves the flags `f`;
nothing else changes. -/
def AluOp.Does (op : AluOp) (i : Instr) (s : State) (rm : RM) (v : Nat) (f : Flags) : Prop :=
  match op.writesBack with
  | true => Stores i s rm v f
  | false => OnlyFlags i s f

section
variable {op : AluOp} {res : Width → Nat → Nat → Nat} {fl : Width → Nat → Nat → Flags → Flags}
  {i : Instr} {s : State} {rm : RM} {am : Addressing} {r : Reg} {w iw : Width} {a b imm : Nat}

/-- Everything the specs of the two commits give: one of the two effects of R90. -/
theorem does_of_next {t : State} {v : Nat} {f : Flags} (hexec : exec i s = .next t) (hflags : t.flags = f)
    (hkeeps : Keeps s t) (hwrote : op.writesBack = true → WroteRM rm v s t)
    (hsame : op.writesBack = false → SameRegs s t ∧ SameMemory s t) : op.Does i s rm v f := by
  obtain ⟨hip, hlaunch, -⟩ := hkeeps
  rw [AluOp.Does]
  split
  · next hback => exact ⟨t, hexec, hwrote hback, hflags, hip, hlaunch⟩
  · next hback =>
    obtain ⟨hregs, hmem⟩ := hsame hback
    exact ⟨t, hexec, hregs, hmem, hflags, hip, hlaunch⟩

/-- An operation with a register destination. -/
theorem does_of_aluCommitReg (hop : op.HasClosedForm res fl) (hexec : exec i s = .next (aluCommitReg op w r a b s))
    (ha : a < w.mod) (hb : b < w.mod) : op.Does i s (.reg r w) (res w a b) (fl w a b s.flags) := by
  obtain ⟨hres, hfl⟩ := hop w a b s.flags ha hb
  obtain ⟨hflags, hkeeps, hwrote, hsame⟩ := aluCommitReg_spec op w r a b s
  rw [← hres, ← hfl]
  exact does_of_next hexec hflags hkeeps hwrote hsame

/-- An operation with the operand it has read as destination; only a write needs memory in its canonical form. -/
theorem does_of_aluCommitRM (hop : op.HasClosedForm res fl) (hexec : exec i s = outcome (aluCommitRM op rm a b s))
    (hwf : op.writesBack = false ∨ s.mem.wf = true) (hread : s.readRM rm = .ok a) (hb : b < rm.width.mod) :
    op.Does i s rm (res rm.width a b) (fl rm.width a b s.flags) := by
  obtain ⟨hadmits, ha⟩ := State.readRM_ok hread
  obtain ⟨hres, hfl⟩ := hop rm.width a b s.flags ha hb
  obtain ⟨t, ht⟩ := aluCommitRM_admitted op a b hadmits
  obtain ⟨hflags, hkeeps, hwrote, hsame⟩ := aluCommitRM_ok ht
  rw [ht] at hexec
  rw [← hres, ← hfl]
  exact does_of_next hexec hflags hkeeps (fun hback => hwrote hback (hwf.resolve_left (by simp [hback]))) hsame

/-! ### The four forms on their operands (R72) -/

/-- Accumulator, immediate (R182, R186, R190). -/
theorem does_of_formAluAccImm (hop : op.HasClosedForm res fl) (hexec : exec i s = outcome (formAluAccImm op w w imm s))
    (himm : imm < w.mod) : op.Does i s (.reg 0 w) (res w (s.regRead 0 w) imm) (fl w (s.regRead 0 w) imm s.flags) := by
  rw [formAluAccImm, sext_self] at hexec
  exact does_of_aluCommitReg hop hexec (s.regRead_lt 0 w) himm

/-- Operand, immediate (R183, R187, R191). -/
theorem does_of_formAluRmImm (hop : op.HasClosedForm res fl)
    (hexec : exec i s = outcome (formAluRmImm op iw (resolve am w s) imm s)) (himm : sext iw w imm = b)
    (hb : b < w.mod) (hwf : op.writesBack = false ∨ s.mem.wf = true) (hread : s.readRM (resolve am w s) = .ok a) :
    op.Does i s (resolve am w s) (res w a b) (fl w a b s.flags) := by
  have hw := resolve_width am w s
  rw [formAluRmImm_eq hread, hw, himm] at hexec
  simpa only [hw] using does_of_aluCommitRM hop hexec hwf hread (hw.symm ▸ hb)

/-- Operand, register with the operand as destination (R184, R188, R192). -/
theorem does_of_formAluRmR (hop : op.HasClosedForm res fl)
    (hexec : exec i s = outcome (formAluRmR op (resolve am w s) r s))
    (hwf : op.writesBack = false ∨ s.mem.wf = true) (hread : s.readRM (resolve am w s) = .ok a) :
    op.Does i s (resolve am w s) (res w a (s.regRead r w)) (fl w a (s.regRead r w) s.flags) := by
  rw [formAluRmR_eq hread] at hexec
  simpa only [resolve_width] using does_of_aluCommitRM hop hexec hwf hread (s.regRead_lt r _)

/-- Register, operand with the register as destination (R185, R189, R193). -/
theorem does_of_formAluRRm (hop : op.HasClosedForm res fl)
    (hexec : exec i s = outcome (formAluRRm op r (resolve am w s) s)) (hread : s.readRM (resolve am w s) = .ok b) :
    op.Does i s (.reg r w) (res w (s.regRead r w) b) (fl w (s.regRead r w) b s.flags) := by
  rw [formAluRRm_eq hread] at hexec
  simpa only [resolve_width] using
    does_of_aluCommitReg hop hexec (s.regRead_lt r _) (State.readRM_ok hread).2

end

end Sys2Proof.Machine

open Sys2Proof Sys2Proof.Machine

/-- Settles O36: the sum of R112 committed to register 0. -/
theorem addAccImm : Obligations.AddAccImm := by
  unfold Obligations.AddAccImm
  intro p66 imm8 imm s
  exact ⟨does_of_formAluAccImm add_hasClosedForm rfl imm8.isLt,
    does_of_formAluAccImm add_hasClosedForm rfl imm.toNat_lt⟩

/-- Settles O37: the sum of R112 committed to the operand, the immediate sign-extended to its width. -/
theorem addRmImm : Obligations.AddRmImm := by
  unfold Obligations.AddRmImm
  intro p66 v am imm8 imm s a hinv
  exact ⟨
    does_of_formAluRmImm add_hasClosedForm rfl (sext_self ..) imm8.isLt (.inr hinv.1),
    does_of_formAluRmImm add_hasClosedForm rfl (sext_self ..) imm.toNat_lt (.inr hinv.1),
    does_of_formAluRmImm add_hasClosedForm rfl (sext_eq_extended ..) (extended_lt ..) (.inr hinv.1)⟩

/-- Settles O38: the sum of R112 committed to the operand. -/
theorem addRmReg : Obligations.AddRmReg := by
  unfold Obligations.AddRmReg
  intro p66 v am r s a hinv
  exact ⟨does_of_formAluRmR add_hasClosedForm rfl (.inr hinv.1),
    does_of_formAluRmR add_hasClosedForm rfl (.inr hinv.1)⟩

/-- Settles O39: the sum of R112 committed to the register. -/
theorem addRegRm : Obligations.AddRegRm := by
  unfold Obligations.AddRegRm
  intro p66 v am r s b
  exact ⟨does_of_formAluRRm add_hasClosedForm rfl, does_of_formAluRRm add_hasClosedForm rfl⟩

/-- Settles O40: the difference of R112 committed to register 0. -/
theorem subAccImm : Obligations.SubAccImm := by
  unfold Obligations.SubAccImm
  intro p66 imm8 imm s
  exact ⟨does_of_formAluAccImm sub_hasClosedForm rfl imm8.isLt,
    does_of_formAluAccImm sub_hasClosedForm rfl imm.toNat_lt⟩

/-- Settles O41: the difference of R112 committed to the operand, the immediate sign-extended to its width. -/
theorem subRmImm : Obligations.SubRmImm := by
  unfold Obligations.SubRmImm
  intro p66 v am imm8 imm s a hinv
  exact ⟨
    does_of_formAluRmImm sub_hasClosedForm rfl (sext_self ..) imm8.isLt (.inr hinv.1),
    does_of_formAluRmImm sub_hasClosedForm rfl (sext_self ..) imm.toNat_lt (.inr hinv.1),
    does_of_formAluRmImm sub_hasClosedForm rfl (sext_eq_extended ..) (extended_lt ..) (.inr hinv.1)⟩

/-- Settles O42: the difference of R112 committed to the operand. -/
theorem subRmReg : Obligations.SubRmReg := by
  unfold Obligations.SubRmReg
  intro p66 v am r s a hinv
  exact ⟨does_of_formAluRmR sub_hasClosedForm rfl (.inr hinv.1),
    does_of_formAluRmR sub_hasClosedForm rfl (.inr hinv.1)⟩

/-- Settles O43: the difference of R112 committed to the register, the register being the minuend. -/
theorem subRegRm : Obligations.SubRegRm := by
  unfold Obligations.SubRegRm
  intro p66 v am r s b
  exact ⟨does_of_formAluRRm sub_hasClosedForm rfl, does_of_formAluRRm sub_hasClosedForm rfl⟩

/-- Settles O44: CMP commits only the flags of the difference. -/
theorem cmpWritesOnlyFlags : Obligations.CmpWritesOnlyFlags := by
  unfold Obligations.CmpWritesOnlyFlags
  intro p66 v am r imm8 imm s a
  refine ⟨does_of_formAluAccImm cmp_hasClosedForm rfl imm8.isLt,
    does_of_formAluAccImm cmp_hasClosedForm rfl imm.toNat_lt, fun hread => ⟨?_, ?_, ?_⟩, fun hread => ?_,
    fun hread => ⟨?_, ?_, ?_⟩⟩
  · exact does_of_formAluRmImm cmp_hasClosedForm rfl (sext_self ..) imm8.isLt (.inl rfl) hread
  · exact does_of_formAluRmR cmp_hasClosedForm rfl (.inl rfl) hread
  · exact does_of_formAluRRm cmp_hasClosedForm rfl hread
  · exact does_of_formAluRmImm cmp_hasClosedForm rfl (sext_self ..) imm.toNat_lt (.inl rfl) hread
  · exact does_of_formAluRmImm cmp_hasClosedForm rfl (sext_eq_extended ..) (extended_lt ..) (.inl rfl) hread
  · exact does_of_formAluRmR cmp_hasClosedForm rfl (.inl rfl) hread
  · exact does_of_formAluRRm cmp_hasClosedForm rfl hread

end

section
/-! SUPPORT. Proofs of the statements of spec/44_bitwise.md. AND, OR, XOR and TEST are two-operand instructions whose
operation has the closed form of R114; TEST writes nothing back and its two operands may change places (R227). -/

namespace Sys2Proof.Machine

open Claims

/-- The result of two patterns of the width is the one that R114 names; the flags are those of the result alone. -/
theorem bitw_hasClosedForm (op : BitOp) :
    (AluOp.bitw op).HasClosedForm (fun _ a b => bitwTmp op a b) (fun w a b _ => bitFlags w (bitwTmp op a b)) :=
  fun _ _ _ f ha hb => ⟨trunc_of_lt (bitwTmp_lt ha hb op), bitwFlags_of_lt (bitwTmp_lt ha hb op) f⟩

/-! ### TEST with its operands exchanged (R227) -/

theorem aluTmp_test_comm (a b : Nat) (w : Width) : aluTmp (.bitw .test) a b w = aluTmp (.bitw .test) b a w :=
  Nat.and_comm a b

/-- An operation that writes nothing back commits its flags alone, so that only its result depends on which operand is
the left one (R90). -/
theorem aluCommitRM_eq_aluCommitReg {op : AluOp} {rm : RM} {a b : Nat} (hback : op.writesBack = false)
    (hcomm : aluTmp op a b rm.width = aluTmp op b a rm.width) (r : Reg) (s : State) :
    aluCommitRM op rm a b s = .ok (aluCommitReg op rm.width r b a s) := by
  simp [aluCommitRM, aluCommitReg, hback, hcomm]

theorem formAluRRm_test_eq (r : Reg) (rm : RM) (s : State) :
    formAluRRm (.bitw .test) r rm s = formAluRmR (.bitw .test) rm r s := by
  cases hread : s.readRM rm with
  | ok a =>
    rw [formAluRRm_eq hread, formAluRmR_eq hread]
    exact (aluCommitRM_eq_aluCommitReg rfl (aluTmp_test_comm ..) r s).symm
  | error f => exact (bind_of_error hread _).trans (bind_of_error hread _).symm

/-- Two forms that decode, check and finish alike are one handler (R140). -/
theorem Handler.run_congr {h g : Handler} {dec : AddrDecoder} {s : State}
    (hdecode : h.decodeStep dec s = g.decodeStep dec s) (hext : ∀ r, h.mismatch r = g.mismatch r)
    (hfinish : ∀ rm r t, h.finish rm r t = g.finish rm r t) : h.run dec s = g.run dec s := by
  cases hd : g.decodeStep dec s with
  | error f => rw [Handler.run_of_decodeStep_error hd, Handler.run_of_decodeStep_error (hdecode.trans hd)]
  | ok a =>
    obtain ⟨rm, r, t⟩ := a
    rw [Handler.run_of_decodeStep_ok hd, Handler.run_of_decodeStep_ok (hdecode.trans hd), hext, hfinish]

theorem legalCommand_aluRRm (op : AluOp) (w : Width) : LegalCommand (Handler.aluRRm op w).command := by
  have hop : (aluOpCode op).val ≤ 6 := by
    rcases op with ⟨⟨⟩⟩ | ⟨⟨⟩⟩ <;> decide
  have hw : (widthCode w).val ∈ [1, 2, 4] := by
    cases w <;> decide
  have hhsel : (Handler.aluRRm op w).command.hsel.val = 9 := rfl
  exact ⟨by omega, hw, hw, le_rfl, hop.trans (by decide), fun _ _ => hop, by omega⟩

end Sys2Proof.Machine

open Sys2Proof Sys2Proof.Machine

/-- Settles O45: the result of R114 committed to register 0. -/
theorem bitwiseAccImm : Obligations.BitwiseAccImm := by
  unfold Obligations.BitwiseAccImm
  intro p66 imm8 imm s
  exact ⟨
    does_of_formAluAccImm (bitw_hasClosedForm .and) rfl imm8.isLt,
    does_of_formAluAccImm (bitw_hasClosedForm .and) rfl imm.toNat_lt,
    does_of_formAluAccImm (bitw_hasClosedForm .or) rfl imm8.isLt,
    does_of_formAluAccImm (bitw_hasClosedForm .or) rfl imm.toNat_lt,
    does_of_formAluAccImm (bitw_hasClosedForm .xor) rfl imm8.isLt,
    does_of_formAluAccImm (bitw_hasClosedForm .xor) rfl imm.toNat_lt⟩

/-- Settles O46: the result of R114 committed to the operand, the immediate sign-extended to its width. -/
theorem bitwiseRmImm : Obligations.BitwiseRmImm := by
  unfold Obligations.BitwiseRmImm
  intro p66 v am imm8 imm s a hinv
  refine ⟨fun hread => ⟨?_, ?_, ?_⟩, fun hread => ⟨?_, ?_, ?_⟩, fun hread => ⟨?_, ?_, ?_⟩⟩
  · exact does_of_formAluRmImm (bitw_hasClosedForm .and) rfl (sext_self ..) imm8.isLt (.inr hinv.1) hread
  · exact does_of_formAluRmImm (bitw_hasClosedForm .or) rfl (sext_self ..) imm8.isLt (.inr hinv.1) hread
  · exact does_of_formAluRmImm (bitw_hasClosedForm .xor) rfl (sext_self ..) imm8.isLt (.inr hinv.1) hread
  · exact does_of_formAluRmImm (bitw_hasClosedForm .and) rfl (sext_self ..) imm.toNat_lt (.inr hinv.1) hread
  · exact does_of_formAluRmImm (bitw_hasClosedForm .or) rfl (sext_self ..) imm.toNat_lt (.inr hinv.1) hread
  · exact does_of_formAluRmImm (bitw_hasClosedForm .xor) rfl (sext_self ..) imm.toNat_lt (.inr hinv.1) hread
  · exact does_of_formAluRmImm (bitw_hasClosedForm .and) rfl (sext_eq_extended ..) (extended_lt ..) (.inr hinv.1) hread
  · exact does_of_formAluRmImm (bitw_hasClosedForm .or) rfl (sext_eq_extended ..) (extended_lt ..) (.inr hinv.1) hread
  · exact does_of_formAluRmImm (bitw_hasClosedForm .xor) rfl (sext_eq_extended ..) (extended_lt ..) (.inr hinv.1) hread

/-- Settles O47: the result of R114 committed to the operand. -/
theorem bitwiseRmReg : Obligations.BitwiseRmReg := by
  unfold Obligations.BitwiseRmReg
  intro p66 v am r s a hinv
  refine ⟨fun hread => ⟨?_, ?_, ?_⟩, fun hread => ⟨?_, ?_, ?_⟩⟩
  · exact does_of_formAluRmR (bitw_hasClosedForm .and) rfl (.inr hinv.1) hread
  · exact does_of_formAluRmR (bitw_hasClosedForm .or) rfl (.inr hinv.1) hread
  · exact does_of_formAluRmR (bitw_hasClosedForm .xor) rfl (.inr hinv.1) hread
  · exact does_of_formAluRmR (bitw_hasClosedForm .and) rfl (.inr hinv.1) hread
  · exact does_of_formAluRmR (bitw_hasClosedForm .or) rfl (.inr hinv.1) hread
  · exact does_of_formAluRmR (bitw_hasClosedForm .xor) rfl (.inr hinv.1) hread

/-- Settles O48: the result of R114 committed to the register. -/
theorem bitwiseRegRm : Obligations.BitwiseRegRm := by
  unfold Obligations.BitwiseRegRm
  intro p66 v am r s b
  refine ⟨fun hread => ⟨?_, ?_, ?_⟩, fun hread => ⟨?_, ?_, ?_⟩⟩
  · exact does_of_formAluRRm (bitw_hasClosedForm .and) rfl hread
  · exact does_of_formAluRRm (bitw_hasClosedForm .or) rfl hread
  · exact does_of_formAluRRm (bitw_hasClosedForm .xor) rfl hread
  · exact does_of_formAluRRm (bitw_hasClosedForm .and) rfl hread
  · exact does_of_formAluRRm (bitw_hasClosedForm .or) rfl hread
  · exact does_of_formAluRRm (bitw_hasClosedForm .xor) rfl hread

/-- Settles O49: TEST commits only the flags of the conjunction. -/
theorem testWritesOnlyFlags : Obligations.TestWritesOnlyFlags := by
  unfold Obligations.TestWritesOnlyFlags
  intro p66 v am r imm8 imm s a
  have htest := bitw_hasClosedForm .test
  refine ⟨does_of_formAluAccImm htest rfl imm8.isLt, does_of_formAluAccImm htest rfl imm.toNat_lt,
    fun hread => ⟨?_, ?_⟩, fun hread => ?_, fun hread => ?_⟩
  · exact does_of_formAluRmImm htest rfl (sext_self ..) imm8.isLt (.inl rfl) hread
  · exact does_of_formAluRmR htest rfl (.inl rfl) hread
  · exact does_of_formAluRmImm htest rfl (sext_self ..) imm.toNat_lt (.inl rfl) hread
  · exact does_of_formAluRmR htest rfl (.inl rfl) hread

/-- Settles O50: the two handlers differ in their commits only, which write nothing back and compute a conjunction. -/
theorem testRegisterDestinationCommand : Obligations.TestRegisterDestinationCommand := by
  unfold Obligations.TestRegisterDestinationCommand
  intro dec w s _
  refine ⟨legalCommand_aluRRm (.bitw .test) w, ?_⟩
  rw [invoke_command (h := .aluRRm (.bitw .test) w) trivial, invoke_command (h := .aluRmR (.bitw .test) w) trivial]
  refine Handler.run_congr rfl (fun _ => rfl) fun rm r t => ?_
  exact congrArg Reply.ofCommit (formAluRRm_test_eq r rm t)

end

section
/-! SUPPORT. Proofs of the statements of spec/45_unary.md. NOT and NEG are one form on the operand that it reads, with
the masked result of R115 or R116 and at most CF written. -/

namespace Sys2Proof.Machine

open Claims

/-- A one-operand instruction on an operand that can be read: the masked result goes back to it (R240). -/
theorem stores_of_formUnaryRm {op : UnOp} {i : Instr} {s : State} {am : Addressing} {w : Width} {a : Nat}
    (hexec : exec i s = outcome (formUnaryRm op (resolve am w s) s)) (hinv : s.Inv)
    (hread : s.readRM (resolve am w s) = .ok a) :
    Stores i s (resolve am w s) (trunc w (unaryTmp op a w)) (unaryFlags op a s.flags) := by
  obtain ⟨t, ht, hflags, ⟨hip, hlaunch, -⟩, hwrote⟩ := formUnaryRm_spec (op := op) hread
  rw [ht] at hexec
  rw [resolve_width] at hwrote
  exact ⟨t, hexec, hwrote hinv.1, hflags, hip, hlaunch⟩

/-- NOT in either width (R241). -/
theorem stores_of_formUnaryRm_not {i : Instr} {s : State} {am : Addressing} {w : Width} {a : Nat}
    (hexec : exec i s = outcome (formUnaryRm .not (resolve am w s) s)) (hinv : s.Inv)
    (hread : s.readRM (resolve am w s) = .ok a) : Stores i s (resolve am w s) (w.max - a) s.flags := by
  rw [← trunc_unaryTmp_not]
  exact stores_of_formUnaryRm hexec hinv hread

/-- NEG in either width (R242, R243). -/
theorem stores_of_formUnaryRm_neg {i : Instr} {s : State} {am : Addressing} {w : Width} {a : Nat}
    (hexec : exec i s = outcome (formUnaryRm .neg (resolve am w s) s)) (hinv : s.Inv)
    (hread : s.readRM (resolve am w s) = .ok a) :
    Stores i s (resolve am w s) ((w.mod - a) % w.mod) ⟨s.flags.sf, s.flags.zf, s.flags.of, decide (a = 0)⟩ := by
  have ha : a < w.mod := resolve_width am w s ▸ (State.readRM_ok hread).2
  rw [← unaryTmp_neg ha]
  exact stores_of_formUnaryRm hexec hinv hread

end Sys2Proof.Machine

open Sys2Proof Sys2Proof.Machine

/-- Settles O51: the operand is replaced by its complement to `MAX(w)`, and NOT writes no flag. -/
theorem notComplementsOperand : Obligations.NotComplementsOperand := by
  unfold Obligations.NotComplementsOperand
  intro p66 v am s a hinv
  exact ⟨stores_of_formUnaryRm_not rfl hinv, stores_of_formUnaryRm_not rfl hinv⟩

/-- Settles O52: the operand is replaced by its complement to `MOD(w)`, masked, and NEG writes CF alone. -/
theorem negNegatesOperand : Obligations.NegNegatesOperand := by
  unfold Obligations.NegNegatesOperand
  intro p66 v am s a hinv
  exact ⟨stores_of_formUnaryRm_neg rfl hinv, stores_of_formUnaryRm_neg rfl hinv⟩

end

section
/-! SUPPORT. Proofs of the statements of spec/46_branch.md. The model's signed reading of a displacement is that of bit
vectors, so that one argument over the width serves the three forms of JMP. -/

namespace Sys2Proof.Machine

open Claims

/-- The two's-complement reading of R107 is that of bit vectors. -/
theorem signed_toNat (w : Width) (d : BitVec (8 * w.bytes)) : signed w d.toNat = d.toInt := by
  have hmsb : d.msb = decide (half w ≤ d.toNat) := BitVec.msb_eq_decide d
  rw [signed_of_lt d.isLt, BitVec.toInt_eq_msb_cond, hmsb]
  simp only [decide_eq_true_eq]
  rfl

/-- The target of R251 adds the sign-extended displacement to all 32 bits of `ip`. -/
theorem jumpTarget_toNat (w : Width) (ip : Word) (d : BitVec (8 * w.bytes)) :
    jumpTarget w ip d.toNat = ip + d.signExtend 32 := by
  rw [jumpTarget, signed_toNat, BitVec.signExtend]

/-- A v-size displacement, as the unsigned pattern that is fetched, gives the target of its own width. -/
theorem jumpTarget_displacement (ip : Word) (d : VImm) :
    jumpTarget d.size.width ip d.toNat = ip + displacement d := by
  cases d with
  | word d => exact jumpTarget_toNat .w2 ip d
  | dword d =>
    calc jumpTarget .w4 ip d.toNat
      _ = ip + d.signExtend 32 := jumpTarget_toNat .w4 ip d
      _ = ip + d := by rw [BitVec.signExtend_eq]

/-- A relative jump writes `ip` and nothing else (R250). -/
theorem onlyIp_of_formJmpRel {i : Instr} {s : State} {w : Width} {d : Nat} {target : Word}
    (hexec : exec i s = outcome (formJmpRel w d s)) (htarget : jumpTarget w s.ip d = target) : OnlyIp i s target :=
  ⟨_, hexec, fun _ => rfl, fun _ => rfl, rfl, htarget, rfl, rfl, rfl⟩

end Sys2Proof.Machine

open Sys2Proof Sys2Proof.Machine

/-- Settles O59: every form of JMP is one write of `ip`, with the target of R251 at its own width. -/
theorem jmpAddsDisplacement : Obligations.JmpAddsDisplacement := by
  unfold Obligations.JmpAddsDisplacement
  intro p66 d8 d s
  exact ⟨onlyIp_of_formJmpRel rfl (jumpTarget_toNat .w1 s.ip d8),
    onlyIp_of_formJmpRel rfl (jumpTarget_displacement s.ip d)⟩

end

section
/-! SUPPORT. Proofs of the statements of spec/60_exceptions.md. S0 passes exactly the legal commands (R262); past S0 a
handler faults only at an access that `MemAdmit` refuses (R264), and the dispatcher's loop adds the exhausted candidates
(R263). -/

namespace Sys2Proof.Machine

open Claims

/-! ### Legal commands (R71 to R73, R262) -/

theorem widthOfCode_isSome_iff (k : Fin 8) : (widthOfCode k).isSome = true ↔ k.val ∈ [1, 2, 4] := by
  revert k
  decide

theorem aluOpOfCode_isSome_iff (k : Fin 16) : (aluOpOfCode k).isSome = true ↔ k.val ≤ 6 := by
  revert k
  decide

theorem unOpOfCode_isSome_iff (k : Fin 16) : (unOpOfCode k).isSome = true ↔ k.val = 7 ∨ k.val = 8 := by
  revert k
  decide

/-- `hsel` names a form, and `op` is in the form's list where the form has one (R72, R73). -/
theorem formOfCommand_isSome_iff (c : Command) (w iw : Width) :
    (formOfCommand c w iw).isSome = true ↔
      c.hsel.val ≤ 11 ∧ (6 ≤ c.hsel.val → c.hsel.val ≤ 9 → c.op.val ≤ 6) ∧
        (c.hsel.val = 10 → c.op.val = 7 ∨ c.op.val = 8) := by
  unfold formOfCommand
  split
  case h_7 hs | h_8 hs | h_9 hs | h_10 hs => simp [hs, aluOpOfCode_isSome_iff]
  case h_11 hs => simp [hs, unOpOfCode_isSome_iff]
  case h_13 =>
    simp only [Option.isSome_none, Bool.false_eq_true, false_iff]
    simp only [imp_false] at *
    rintro ⟨hle, -⟩
    omega
  all_goals
    next hs => simp [hs]

/-- S0 passes exactly the legal commands (R71, R262). -/
theorem Command.check_isSome_iff (c : Command) : c.check.isSome = true ↔ LegalCommand c := by
  unfold Command.check LegalCommand
  rw [← widthOfCode_isSome_iff, ← widthOfCode_isSome_iff]
  cases hw : widthOfCode c.w with
  | none => simp
  | some w =>
    cases hiw : widthOfCode c.iw with
    | none => simp
    | some iw =>
      rw [← widthOfCode_bytes hw, ← widthOfCode_bytes hiw]
      by_cases hfits : iw.bytes ≤ w.bytes ∧ c.op.val ≤ 8
      · simp [hfits, formOfCommand_isSome_iff]
      · simp only [if_neg hfits, Option.isSome_none, Bool.false_eq_true, false_iff]
        tauto

theorem invoke_of_illegal {c : Command} (h : ¬ LegalCommand c) (dec : AddrDecoder) (s : State) :
    invoke dec c s = .fault (.invariantViolation c) :=
  invoke_of_check_none (by simpa [← Command.check_isSome_iff] using h)

/-- A legal command runs the handler that it names. -/
theorem invoke_of_legal {c : Command} (h : LegalCommand c) : ∃ g : Handler, ∀ dec s, invoke dec c s = g.run dec s := by
  obtain ⟨g, hg⟩ := Option.isSome_iff_exists.mp ((Command.check_isSome_iff c).mpr h)
  exact ⟨g, fun dec s => by rw [invoke, hg]⟩

/-- The default opcode map issues legal commands only (R81). -/
theorem opmapDefault_legal {opcode : Nat} {v : Width} {c : Command} (hc : c ∈ opmapDefault opcode v) :
    LegalCommand c := by
  obtain ⟨h, hh, rfl⟩ := List.mem_map.mp hc
  rw [← Command.check_isSome_iff, Handler.check_command ((fitCandidates_candidates opcode v).1 h hh)]
  rfl

/-! ### Faults of an access (R264) -/

/-- The fault is a MemoryFault of an access that `MemAdmit` refuses. -/
def Fault.Unadmitted (s : State) (f : Fault) : Prop :=
  ∃ addr n kind, f = .memoryFault addr n kind ∧ s.memAdmit addr n = false

@[simp] theorem Fault.unadmitted_advance {s : State} {k : Nat} {f : Fault} :
    Fault.Unadmitted (s.advance k) f ↔ Fault.Unadmitted s f := Iff.rfl

theorem State.memRead_unadmitted {s : State} {addr : Word} {n : Nat} {f : Fault} (h : s.memRead addr n = .error f) :
    f.Unadmitted s :=
  have ⟨ha, hf⟩ := State.memRead_error h
  ⟨addr, n, .read, hf, ha⟩

theorem State.fetchImm_unadmitted {s : State} {n : Nat} {f : Fault} (h : s.fetchImm n = .error f) :
    f.Unadmitted s :=
  have ⟨ha, hf⟩ := State.fetchImm_error h
  ⟨s.ip, n, .read, hf, ha⟩

/-- S2 faults only at a byte that `DEC_REF` cannot read. -/
theorem Handler.decodeStep_unadmitted {h : Handler} {s : State} {f : Fault}
    (hd : h.decodeStep decRef s = .error f) : f.Unadmitted s := by
  unfold Handler.decodeStep at hd
  split at hd
  · obtain hd | ⟨_, -, hd⟩ := bind_error hd
    · obtain ⟨k, n, -, hread⟩ := decRef_error hd
      exact State.memRead_unadmitted hread
    · cases hd
  · cases hd

/-- S4 faults only at an immediate that cannot be read. -/
theorem Handler.fetchStep_unadmitted {h : Handler} {s : State} {f : Fault} (hf : h.fetchStep s = .error f) :
    f.Unadmitted s := by
  unfold Handler.fetchStep at hf
  split at hf
  · exact State.fetchImm_unadmitted hf
  · cases hf

/-- S5 to S8 fault only at the memory operand. -/
theorem Handler.commit_unadmitted {h : Handler} {rm : RM} {r : Reg} {imm : Nat} {s : State} {f : Fault}
    (hc : h.commit rm r imm s = .error f) : f.Unadmitted s := by
  by_cases hadm : ∀ o, h.operand rm imm = some o → s.admits o = true
  · obtain ⟨t, ht⟩ := Handler.commit_admitted r hadm
    simp [ht] at hc
  · push Not at hadm
    obtain ⟨o, ho, ha⟩ := hadm
    cases o with
    | reg i w => simp [State.admits] at ha
    | mem addr w =>
      have ha : s.memAdmit addr w.bytes = false := by simpa [State.admits] using ha
      rw [Handler.commit_refused r ho ha] at hc
      cases hc
      exact ⟨addr, w.bytes, h.operandAccess, rfl, ha⟩

theorem Reply.ofCommit_eq_fault_iff {x : Except Fault State} {f : Fault} :
    Reply.ofCommit x = .fault f ↔ x = .error f := by
  cases x <;> simp [Reply.ofCommit]

/-- Past S0 a handler faults only at an access that is refused (R140, R264). -/
theorem Handler.run_unadmitted {h : Handler} {s : State} {f : Fault} (hr : h.run decRef s = .fault f) :
    f.Unadmitted s := by
  cases hd : h.decodeStep decRef s with
  | error e =>
    rw [Handler.run_of_decodeStep_error hd] at hr
    cases hr
    exact Handler.decodeStep_unadmitted hd
  | ok a =>
    obtain ⟨rm, r, t⟩ := a
    have hsame : f.Unadmitted t ↔ f.Unadmitted s := by
      obtain ⟨-, rfl, -⟩ | ⟨-, n, -, rfl⟩ := Handler.decodeStep_ok hd <;> rfl
    rw [Handler.run_of_decodeStep_ok hd] at hr
    split at hr
    · cases hr
    · rw [← hsame]
      obtain hf | ⟨⟨imm, u⟩, hf, hc⟩ := bind_error (Reply.ofCommit_eq_fault_iff.mp hr)
      · exact Handler.fetchStep_unadmitted hf
      · obtain ⟨rfl, -⟩ := Handler.fetchStep_ok hf
        exact Handler.commit_unadmitted (s := t.advance _) hc

theorem invoke_unadmitted {c : Command} {s : State} {f : Fault} (hc : LegalCommand c)
    (h : invoke decRef c s = .fault f) : f.Unadmitted s := by
  obtain ⟨g, hg⟩ := invoke_of_legal hc
  exact Handler.run_unadmitted ((hg decRef s).symm.trans h)

/-! ### What a step answers (R262 to R264) -/

/-- A next state, a DecodeError at the given address, or an access that `MemAdmit` refuses: no refusal, no
InvariantViolation. -/
def NamedOutcome (s : State) (opaddr : Word) (x : Host.Outcome State Fault Refusal) : Prop :=
  (∃ t, x = .next t) ∨ (∃ b, x = .fault (.decodeError opaddr b)) ∨ ∃ f, x = .fault f ∧ f.Unadmitted s

/-- The loop over legal candidates ends in a commit, an access that is refused, or the exhausted list (R84, R263). -/
theorem tryCandidates_named {cs : List Command} (hcs : ∀ c ∈ cs, LegalCommand c) (opaddr : Word) (opcode : Nat)
    (s : State) : NamedOutcome s opaddr (tryCandidates decRef opaddr opcode cs s) := by
  induction cs with
  | nil => exact .inr (.inl ⟨_, rfl⟩)
  | cons c cs ih =>
    obtain ⟨hc, hcs⟩ := List.forall_mem_cons.mp hcs
    cases hi : invoke decRef c s with
    | matched t => exact .inl ⟨t, by rw [tryCandidates, hi]⟩
    | notMatched t =>
      obtain rfl := invoke_notMatched hi
      rw [tryCandidates_cons_of_notMatched hi]
      exact ih hcs
    | fault f => exact .inr (.inr ⟨f, by rw [tryCandidates, hi], invoke_unadmitted hc hi⟩)

/-- The dispatcher's step reads the opcode byte, after a byte 0x66 if one stands there, and tries its candidates
(R84). -/
theorem dispatch_named (s : State) : NamedOutcome s s.ip (dispatch opmapDefault decRef s) := by
  have hloop (b : Nat) (v : Width) (t : State) :
      NamedOutcome t s.ip (tryCandidates decRef s.ip b (opmapDefault b v) t) :=
    tryCandidates_named (fun _ => opmapDefault_legal) s.ip b t
  unfold dispatch
  split
  · exact .inl ⟨s, rfl⟩
  split
  · next f hf => exact .inr (.inr ⟨f, rfl, State.fetchImm_unadmitted hf⟩)
  · next b s1 hb =>
    obtain ⟨-, rfl⟩ := State.fetchImm_ok hb
    split
    · split
      · next f hf => exact .inr (.inr ⟨f, rfl, State.fetchImm_unadmitted (s := s.advance 1) hf⟩)
      · next b' s2 hb' =>
        obtain ⟨-, rfl⟩ := State.fetchImm_ok hb'
        exact hloop b' .w2 _
    · exact hloop b .w4 _

/-! ### FAULT is terminal (R266) -/

theorem run_succ_of_step_fault {s : State} {f : Fault} (h : step s = .fault f) (k : Nat) :
    Host.Core.run core (k + 1) s = .fault f := by
  have hcore : core.step s = .fault f := h
  simp only [Host.Core.run, hcore]

theorem step_of_phase_fault {s : State} {f : Fault} (h : s.engine.phase = .fault f) : step s = .fault f := by
  simp only [step, h]

theorem State.accept_of_phase_fault {s : State} {f : Fault} (h : s.engine.phase = .fault f) (c : Command) :
    s.accept c = none := by
  simp [State.accept, h]

/-- In FAULT the state machine stays as it is, whatever its latches hold (R146). -/
theorem tick_of_phase_fault {s : State} {f : Fault} (h : s.engine.phase = .fault f) (dec : AddrDecoder) :
    tick dec s = (s, none) := by
  have hcheck : s.engine.phase ≠ .checkCmd := by simp [h]
  cases hh : s.engine.handler with
  | none => simp only [tick, h, hh]
  | some g => rw [tick_of_handler hh hcheck]; simp only [Handler.tick, h]

/-- Where the run is over, a step stays in the state (R296). -/
theorem step_of_ended {s : State} (hidle : s.engine.phase = .idle) (hend : s.ended) : step s = .next s := by
  have hip : s.ip = s.haltAddr := hend
  simp only [step, hidle, if_pos hip]

/-- From a state whose step faults no run ends successfully: no step is taken, and the run is not over yet. -/
theorem not_successfulRun_of_step_fault {s : State} {f : Fault} (h : step s = .fault f) (t : State) :
    ¬ SuccessfulRun s t := by
  rintro ⟨k, hrun, hidle, hend⟩
  cases k with
  | zero =>
    cases hrun
    rw [step_of_ended hidle hend] at h
    cases h
  | succ k =>
    rw [RunsTo, run_succ_of_step_fault h k] at hrun
    cases hrun

end Sys2Proof.Machine

open Sys2Proof Sys2Proof.Machine Sys2Proof.Claims

/-- Settles O8: a run stops at the first fault, and in FAULT neither the step nor the state machine moves. -/
theorem faultIsTerminal : Obligations.FaultIsTerminal := by
  unfold Obligations.FaultIsTerminal
  exact ⟨fun _ _ => run_succ_of_step_fault,
    fun _ _ h => ⟨step_of_phase_fault h, State.accept_of_phase_fault h, tick_of_phase_fault h⟩,
    fun _ t _ h => not_successfulRun_of_step_fault h t⟩

/-- Settles O24: S0 passes exactly the legal commands, and what S1 to S9 raise is a MemoryFault. -/
theorem illegalCommandIsInvariantViolation : Obligations.IllegalCommandIsInvariantViolation := by
  unfold Obligations.IllegalCommandIsInvariantViolation
  refine ⟨fun dec c s h => invoke_of_illegal h dec s, fun c d s hc h => ?_, fun _ _ _ => opmapDefault_legal⟩
  obtain ⟨addr, n, kind, hf, -⟩ := invoke_unadmitted hc h
  cases hf

/-- Settles O31: the step is the dispatcher's, whose candidates are all legal. -/
theorem stepFaultsAreNamed : Obligations.StepFaultsAreNamed := by
  unfold Obligations.StepFaultsAreNamed
  intro s hidle
  rw [stepIsDispatch s hidle]
  obtain hnext | hdecode | ⟨_, hf, addr, n, kind, rfl, ha⟩ := dispatch_named s
  · exact .inl hnext
  · exact .inr (.inl hdecode)
  · exact .inr (.inr ⟨addr, n, kind, hf, ha⟩)

end

section
/-! SUPPORT. Proof of the statement of spec/70_reset_and_hazards.md: where a step stays in its state, every run stays
there, and at `HALT_ADDR` the step stays (R296). -/

namespace Sys2Proof.Machine

/-- A run of any number of steps stays in a state that the step answers as its own next state. -/
theorem runsTo_self_of_step_next_self {s : State} (h : step s = .next s) (k : Nat) : RunsTo k s s := by
  have hcore : core.step s = .next s := h
  unfold RunsTo
  induction k with
  | zero => rfl
  | succ k ih => simp only [Host.Core.run, hcore, ih]

end Sys2Proof.Machine

open Sys2Proof Sys2Proof.Machine Sys2Proof.Claims

/-- Settles O7: at `HALT_ADDR` the step stays in the state, and a run is an iteration of the step. -/
theorem haltAddrEndsRun : Obligations.HaltAddrEndsRun := by
  unfold Obligations.HaltAddrEndsRun
  intro s k hidle hend
  have hstay : step s = .next s := step_of_ended hidle hend
  exact ⟨hstay, runsTo_self_of_step_next_self hstay k⟩

end
